-- ==== Sys2Proof/Word.lean ====
section
/-! DEFINITION. Word.lean: the register and data word of the block, and the plain names of its other values. -/

namespace Sys2Proof

/-- A register or a data word: 32 bits, bit 0 least significant (00_scope.md R10, 10_state.md R20). -/
abbrev Word := BitVec 32

/-- A host transaction written as one number, the 68-bit `(we, space, index, wdata)` (30_encoding.md R91). -/
abbrev TransactionWord := BitVec 68

/-- A Symbol is an unsigned integer of `SYM_W` bits, ordered numerically (00_scope.md R8). The width is a
parameter of the block, so the bound is kept by the operations that write and read elements. -/
abbrev Symbol := Nat

/-- A bit of a code or of the stream: the source's '0' is `false`, '1' is `true` (00_scope.md R9). -/
abbrev Bit := Bool

end Sys2Proof
end

