-- ==== Sys2Proof/Config.lean ====
section
/-! DEFINITION. Config.lean: what an implementation fixes (the parameter record of 00_scope.md R5) and the
free values, which the spec leaves open. -/

namespace Sys2Proof

/-- The implementation parameters, "one configuration record" (00_scope.md R5). They are no state of the
block: `exec` and `step` have no configuration argument, so `State.params` carries the record and no step
changes it (DESIGN CHOICE, log 1). `INT_TIE` is fixed by the spec (log 8). -/
structure Params where
  /-- `SYM_W`: width of a Symbol in bits. -/
  symW : Nat
  /-- `W_W`: width of a weight or count in bits. -/
  wW : Nat
  /-- `MAX_TEXT`: capacity of TEXT and of OUT, in symbols. -/
  maxText : Nat
  /-- `MAX_STREAM`: capacity of STREAM, in bits. -/
  maxStream : Nat
  /-- `LEGACY_SYM_L`: the symbol the legacy rule places on the left. -/
  legacySymL : Symbol
  /-- `LEGACY_SYM_R`: the symbol the legacy rule places on the right. -/
  legacySymR : Symbol
  deriving DecidableEq, Repr

/-- FREE VALUE. What the element `index` of the space numbered `space` holds, where the spec leaves it
unspecified, for a reader whose draw number is `draw` (93_implementation_defined.md U4 to U8: "any value, one
draw per element per read"; log 3). It has no body: nothing can be proved of its values. -/
opaque Config.unspecified (draw space index : Nat) : Word

/-- FREE VALUE. The `rdata` of a faulted transaction and of a WR (93_implementation_defined.md U15; log 4). -/
opaque Config.unspecifiedAnswer (draw : Nat) : Word

end Sys2Proof
end

