-- ==== Sys2Proof/Syntax.lean ====
section
/-! DEFINITION. Syntax.lean: the instructions of the block (the rows of spec/opcode_table.json) and the names
their operands use: the eight spaces and the ten registers. -/

namespace Sys2Proof

/-- The eight element-addressed spaces (20_memory.md R61). -/
inductive Space
  | reg | text | stream | out | freq | node | codeLen | codeBit
  deriving DecidableEq, Repr

/-- The ten registers of the REG space (10_state.md R20). -/
inductive Reg
  | cmd | status | cfg | textLen | streamLen | outLen | root | nodeCnt | nleaf | errInfo
  deriving DecidableEq, Repr

/-- The five commands (30_encoding.md R92) and the two host transactions (R91). A command has no operand
(R93). The write data of a RD is ignored (20_memory.md R60) and is therefore no operand of `rd` (log 10). -/
inductive Instr
  | build
  | gentab
  | encode
  | decode
  | clear
  | rd (space : Space) (index : Nat)
  | wr (space : Space) (index : Nat) (wdata : Word)
  deriving DecidableEq, Repr

end Sys2Proof
end

