-- ==== Sys2Proof/WellFormed.lean ====
section
/-! DEFINITION. WellFormed.lean: which instructions have an encoding, and which parameter records are those of
a block. -/

namespace Sys2Proof

/-- A transaction's `index` field has 32 bits (30_encoding.md R91); a command has no operand to check (R93). -/
def Instr.wellFormed : Instr → Bool
  | .build => true
  | .gentab => true
  | .encode => true
  | .decode => true
  | .clear => true
  | .rd _ index => decide (index < 2 ^ 32)
  | .wr _ index _ => decide (index < 2 ^ 32)

/-- The constraints "which every instance must meet" (00_scope.md R6), in the order of the rule. -/
def Params.wellFormed (p : Params) : Bool :=
  decide (1 ≤ p.symW)
  && (decide (1 ≤ p.maxText) && decide (p.maxText ≤ 2 ^ p.wW - 1))
  && decide (1 ≤ p.maxStream)
  && (decide (p.wW ≤ 32) && decide (p.maxText ≤ 2 ^ 32 - 1) && decide (p.maxStream ≤ 2 ^ 32 - 1))
  && decide (p.symW ≤ 15)
  && (decide (p.legacySymL ≠ p.legacySymR)
      && decide (p.legacySymL < 2 ^ p.symW) && decide (p.legacySymR < 2 ^ p.symW))

end Sys2Proof
end

