-- ==== Sys2Proof/Decode.lean ====
section
/-! DEFINITION. Decode.lean: from words to instructions, total, rejecting by name; and the encoder, written from
the same tables of the spec (30_encoding.md R90 to R96, 20_memory.md R60, R61). -/

namespace Sys2Proof

/-- A word in one of the block's two formats: a 32-bit command word (30_encoding.md R90) or a 68-bit host
transaction (R91). -/
inductive Code
  | cmd (w : Word)
  | host (w : TransactionWord)
  deriving DecidableEq, Repr

/-- Why a word is no instruction. `illegalCommand`: a command word outside the map of R92 (30_encoding.md R95).
No transaction word is rejected. -/
inductive Reject
  | illegalCommand (w : Word)
  deriving DecidableEq, Repr

/-- The space ids (20_memory.md R61). -/
def Space.id : Space → BitVec 3
  | .reg => 0
  | .text => 1
  | .stream => 2
  | .out => 3
  | .freq => 4
  | .node => 5
  | .codeLen => 6
  | .codeBit => 7

/-- "Every 3-bit `space` value names a space; there is no unused space id" (20_memory.md R61). -/
def Space.ofId (v : BitVec 3) : Space :=
  match v.toNat with
  | 0 => .reg
  | 1 => .text
  | 2 => .stream
  | 3 => .out
  | 4 => .freq
  | 5 => .node
  | 6 => .codeLen
  | _ => .codeBit

/-- The decoder of command words: `ZERO` (bits 31:4) must be 0 and `OP` (bits 3:0) one of five values
(30_encoding.md R90, R92); every other word is illegal (R95). -/
def decodeCommand (w : Word) : Except Reject Instr :=
  if w.extractLsb' 4 28 ≠ 0 then .error (.illegalCommand w)
  else
    match (w.extractLsb' 0 4).toNat with
    | 1 => .ok .build
    | 2 => .ok .gentab
    | 3 => .ok .encode
    | 4 => .ok .decode
    | 5 => .ok .clear
    | _ => .error (.illegalCommand w)

/-- The fields of a transaction word `{we, space, index, wdata}` (30_encoding.md R91). -/
def TransactionWord.we (w : TransactionWord) : Bool := w.getLsbD 67
def TransactionWord.space (w : TransactionWord) : Space := Space.ofId (w.extractLsb' 64 3)
def TransactionWord.index (w : TransactionWord) : Nat := (w.extractLsb' 32 32).toNat
def TransactionWord.wdata (w : TransactionWord) : Word := w.extractLsb' 0 32

/-- The decoder of transactions: `we` = 0 is RD, 1 is WR (30_encoding.md R91); every word is one of them. -/
def decodeTransaction (w : TransactionWord) : Instr :=
  if TransactionWord.we w then
    .wr (TransactionWord.space w) (TransactionWord.index w) (TransactionWord.wdata w)
  else .rd (TransactionWord.space w) (TransactionWord.index w)

/-- The whole decoder. -/
def decode : Code → Except Reject Instr
  | .cmd w => decodeCommand w
  | .host w => .ok (decodeTransaction w)

/-- One transaction as a number: `we` in bit 67, `space` in 66:64, `index` in 63:32, `wdata` in 31:0. -/
def transactionWord (we : Bool) (space : Space) (index : Nat) (wdata : Word) : TransactionWord :=
  BitVec.ofBool we ++ space.id ++ BitVec.ofNat 32 index ++ wdata

/-- The word of a well-formed instruction (30_encoding.md R91, R92). The ignored write data of a RD is encoded
as 0 (DESIGN CHOICE, log 10). -/
def encode : Instr → Code
  | .build => .cmd 0x00000001#32
  | .gentab => .cmd 0x00000002#32
  | .encode => .cmd 0x00000003#32
  | .decode => .cmd 0x00000004#32
  | .clear => .cmd 0x00000005#32
  | .rd space index => .host (transactionWord false space index 0)
  | .wr space index wdata => .host (transactionWord true space index wdata)

/-- The instruction read from a row's word `w` of `nbits` bits, numbered as spec/opcode_table.json numbers
them. The CMD rows have 32 bits, the HOST rows 68 (72 in whole bytes); a word longer than its format is none. -/
def decodeTableWord (nbits w : Nat) : Option Instr :=
  if nbits ≤ 32 then
    if w < 2 ^ 32 then
      match decode (.cmd (BitVec.ofNat 32 w)) with
      | .ok i => some i
      | .error _ => none
    else none
  else if w < 2 ^ 68 then
    match decode (.host (BitVec.ofNat 68 w)) with
    | .ok i => some i
    | .error _ => none
  else none

end Sys2Proof
end

