-- ==== Sys2Proof/Machine/Params.lean ====
section
/-! DEFINITION. Machine/Params.lean: the recommended parameter values (00_scope.md R5) and the constants derived
from the parameters (R7). -/

namespace Sys2Proof

/-- "The default is the value this spec recommends when the reader needs a concrete instance" (00_scope.md R5). -/
def Params.recommended : Params :=
  { symW := 8, wW := 32, maxText := 4096, maxStream := 32768, legacySymL := 0x43, legacySymR := 0x44 }

/-- `ALPHA`, the number of possible symbols (00_scope.md R7). -/
def Params.alpha (p : Params) : Nat := 2 ^ p.symW

/-- `MAXNODE`, the number of node slots (00_scope.md R7). -/
def Params.maxNode (p : Params) : Nat := 2 * p.alpha - 1

/-- `IDX_W`, the width of a node index (00_scope.md R7). -/
def Params.idxW (p : Params) : Nat := p.symW + 1

/-- `MAXLEN`, the longest possible code (00_scope.md R7). -/
def Params.maxLen (p : Params) : Nat := max 1 (p.alpha - 1)

end Sys2Proof
end

