-- ==== Sys2Proof/Machine/State.lean ====
section
/-! DEFINITION. Machine/State.lean: the state of the block as plain data (10_state.md), what the outside world has
presented at its port, the state after reset (R44), and the reasons a step can stop. -/

namespace Sys2Proof.Machine

/-- STATUS.STATE (10_state.md R22): no command since reset or CLEAR, a command in flight, the last command
completed. The value 3 never occurs, so the type has no name for it (93_implementation_defined.md U14). -/
inductive Phase
  | idle | busy | done
  deriving DecidableEq, Repr

/-- The eight errors a command can end in (60_exceptions.md R190). -/
inductive CmdError
  | emptyInput | symbolNotInTable | malformedStream | illegalCommand
  | noTree | noTable | streamOverflow | outputOverflow
  deriving DecidableEq, Repr

/-- STATUS, register 1 (10_state.md R22). The host cannot write it and bits 7:5 and 31:16 are always 0, so the
fields are all there is; `Status.word` is the register as the host reads it. -/
structure Status where
  state : Phase
  treeValid : Bool
  tableValid : Bool
  sticky : Bool
  /-- The error of the last completed command; `none` is code 0, "no error". -/
  err : Option CmdError
  deriving DecidableEq, Repr

/-- CFG, register 2: bit 0 is LEGACY_CD, bits 31:1 are hard-wired to 0 (10_state.md R23). -/
structure Cfg where
  legacyCd : Bool
  deriving DecidableEq, Repr

/-- The two-way tag of a tree node (10_state.md R33). -/
inductive Tag
  | leaf | internal
  deriving DecidableEq, Repr

/-- One slot of the NODE table, in five fields (10_state.md R33). -/
structure Node where
  tag : Tag
  weight : Nat
  sym : Symbol
  left : Nat
  right : Nat
  deriving DecidableEq, Repr

/-- An element-addressed memory: the elements that hold a defined value, by index, strictly rising
(`Memory.wf`). An index with no entry holds no defined value: it reads as a free value (log 3), which is what the
spec says of every element after reset (10_state.md R44, R46). -/
abbrev Memory (α : Type) := List (Nat × α)

/-- The block's answer to a transaction (20_memory.md R60): `fault` = true is AccessFault. -/
structure Answer where
  fault : Bool
  rdata : Word
  deriving DecidableEq, Repr

/-- What the outside world and time bring next (20_memory.md R70, 70_reset_and_hazards.md R220; log 2):
a transaction on the host port, the moment of the core's completion step, or `rst` sampled high. -/
inductive PortEvent
  | transaction (w : TransactionWord)
  | completion
  | reset
  deriving DecidableEq, Repr

/-- Everything the block holds (10_state.md sections 1 to 4), the port (20_memory.md R60), and two fields of the
model's own: `params` (log 1) and `draws` (log 3). -/
structure State where
  /-- The configuration record (00_scope.md R5). Not state of the block: no step changes it (log 1). -/
  params : Params
  /-- CMD, register 0 (R21). -/
  cmd : Word
  /-- STATUS, register 1 (R22). -/
  status : Status
  /-- CFG, register 2 (R23). -/
  cfg : Cfg
  /-- TEXT_LEN, register 3 (R24). -/
  textLen : Word
  /-- STREAM_LEN, register 4 (R25). -/
  streamLen : Word
  /-- OUT_LEN, register 5 (R26). -/
  outLen : Word
  /-- ROOT, register 6 (R28). -/
  root : Word
  /-- NODE_CNT, register 7 (R29). -/
  nodeCnt : Word
  /-- NLEAF, register 8 (R30). -/
  nleaf : Word
  /-- ERR_INFO, register 9 (R31). -/
  errInfo : Word
  /-- TEXT (R39). -/
  text : Memory Symbol
  /-- STREAM (R40). -/
  stream : Memory Bit
  /-- OUT (R41). -/
  out : Memory Symbol
  /-- FREQ (R36). -/
  freq : Memory Nat
  /-- NODE (R33). -/
  node : Memory Node
  /-- CODELEN (R37). -/
  codeLen : Memory Nat
  /-- CODEBIT (R37). -/
  codeBit : Memory Bit
  /-- The answer to the last transaction, `h_fault` and `h_rdata` (20_memory.md R60; log 6). -/
  answer : Option Answer
  /-- What comes next at the port, first first (log 2). -/
  pending : List PortEvent
  /-- The model's own: how many transactions, completions and resets there have been; the number the next
  free values are drawn with (log 3). -/
  draws : Nat
  deriving DecidableEq, Repr

/-- The reasons a step can stop with a fault: none. Every error of the spec is a reported result after which the
machine goes on (60_exceptions.md R190, R195, R202), so no step of this model ends in a fault. -/
inductive Fault
  deriving DecidableEq, Repr

/-- The reasons the model gives an instruction no meaning. -/
inductive Refusal
  /-- Raised by an arm of `exec` whose instruction has no meaning yet. Safe: a run stops there. No arm of this
  model raises it. -/
  | notModelled (mnemonic : String)
  deriving DecidableEq, Repr

/-- STATUS after reset: the word 0x00000000 (10_state.md R44). -/
def Status.cleared : Status :=
  { state := .idle, treeValid := false, tableValid := false, sticky := false, err := none }

/-- The machine right after reset (10_state.md R44, 70_reset_and_hazards.md R220): every register 0, every
element of every memory unspecified. The parameters are the recommended ones (log 1), nothing has been presented
at the port (log 2) or answered (log 6), and no free value has been drawn (log 3). -/
def State.reset : State :=
  { params := Params.recommended
    cmd := 0, status := Status.cleared, cfg := { legacyCd := false }
    textLen := 0, streamLen := 0, outLen := 0, root := 0, nodeCnt := 0, nleaf := 0, errInfo := 0
    text := [], stream := [], out := [], freq := [], node := [], codeLen := [], codeBit := []
    answer := none, pending := [], draws := 0 }

end Sys2Proof.Machine
end

