-- ==== Sys2Proof/Machine/Flags.lean ====
section
/-! DEFINITION. Machine/Flags.lean: the STATUS and CFG words as the host reads them, the error codes, and what
issue, success, error, BUILD, GENTAB and CLEAR do to the flags (10_state.md R22, R23, R32). The block has no
arithmetic condition codes (R32). -/

namespace Sys2Proof.Machine

/-- STATUS.STATE as two bits (10_state.md R22). -/
def Phase.code : Phase → BitVec 2
  | .idle => 0
  | .busy => 1
  | .done => 2

/-- The code written to STATUS.ERR (60_exceptions.md R190). -/
def CmdError.code : CmdError → BitVec 8
  | .emptyInput => 1
  | .symbolNotInTable => 2
  | .malformedStream => 3
  | .illegalCommand => 4
  | .noTree => 5
  | .noTable => 6
  | .streamOverflow => 7
  | .outputOverflow => 8

/-- STATUS.ERR: 0 is "no error" (10_state.md R22, 60_exceptions.md R190). -/
def errField : Option CmdError → BitVec 8
  | none => 0
  | some e => e.code

/-- STATUS as the host reads it: ERR in 15:8, zeros in 31:16 and 7:5, STICKY in 4, TABLE_VALID in 3,
TREE_VALID in 2, STATE in 1:0 (10_state.md R22). -/
def Status.word (st : Status) : Word :=
  0#16 ++ errField st.err ++ 0#3 ++ BitVec.ofBool st.sticky ++ BitVec.ofBool st.tableValid
    ++ BitVec.ofBool st.treeValid ++ st.state.code

/-- CFG as the host reads it: LEGACY_CD in bit 0, zeros above (10_state.md R23). -/
def Cfg.word (c : Cfg) : Word := BitVec.zeroExtend 32 (BitVec.ofBool c.legacyCd)

/-- What a write of CFG keeps: bit 0; "the upper bits of `wdata` are ignored" (20_memory.md R64). -/
def Cfg.ofWord (w : Word) : Cfg := { legacyCd := w.getLsbD 0 }

/-- Issue sets STATE and nothing else: "the flags, ERR and ERR_INFO of the previous command stay readable"
(44_control.md R175). -/
def Status.issued (st : Status) : Status := { st with state := .busy }

/-- The last lines of a command that succeeds: ERR ← 0, STATE ← DONE; STICKY is unchanged (10_state.md R32). -/
def Status.succeeded (st : Status) : Status := { st with err := none, state := .done }

/-- ERR, STICKY and STATE at an error (60_exceptions.md R202). -/
def Status.failed (st : Status) (e : CmdError) : Status := { st with err := some e, sticky := true, state := .done }

/-- A BUILD that made a tree: TREE_VALID ← 1, TABLE_VALID ← 0 (40_build.md R110). -/
def Status.treeBuilt (st : Status) : Status := { st with treeValid := true, tableValid := false }

/-- A BUILD that failed: both valid flags ← 0 (40_build.md R112, 60_exceptions.md R202). -/
def Status.treeLost (st : Status) : Status := { st with treeValid := false, tableValid := false }

/-- GENTAB: TABLE_VALID ← 1 (41_gentab.md R140). -/
def Status.tableBuilt (st : Status) : Status := { st with tableValid := true }

end Sys2Proof.Machine
end

