-- ==== Sys2Proof/Machine/Ops.lean ====
section
/-! DEFINITION. Machine/Ops.lean: the operations the meanings share: reading and writing an element of a memory,
what an element without a value reads as, issuing a command, its success, its error entry (the block's one
exception mechanism, 60_exceptions.md R202), answering a transaction, and reset. There is no return from an error
("There is no return instruction: an error needs no acknowledgement", R204), so none is defined. -/

namespace Sys2Proof.Machine

/-! ### Memories (00_scope.md R11: `MemRead`, `MemWrite`, one whole element) -/

/-- The canonical form: indices strictly rising, so that equal memories are equal lists. -/
abbrev Memory.wf {α : Type} (m : Memory α) : Prop := (m.map Prod.fst).Pairwise (· < ·)

/-- The element `i`, if it holds a defined value. -/
def Memory.read {α : Type} : Memory α → Nat → Option α
  | [], _ => none
  | (k, v) :: rest, i => if k = i then some v else Memory.read rest i

/-- Write one element, keeping the order of the indices. -/
def Memory.write {α : Type} : Memory α → Nat → α → Memory α
  | [], i, v => [(i, v)]
  | (k, w) :: rest, i, v =>
    if i < k then (i, v) :: (k, w) :: rest
    else if i = k then (i, v) :: rest
    else (k, w) :: Memory.write rest i v

/-- Write the elements `i`, `i + 1`, ... with the values of a list, in order. -/
def Memory.writeAll {α : Type} : Memory α → Nat → List α → Memory α
  | m, _, [] => m
  | m, i, v :: vs => Memory.writeAll (Memory.write m i v) (i + 1) vs

/-- The memory whose elements `0 .. n-1` hold `f 0 .. f (n-1)` and whose other elements are unspecified. -/
def Memory.table {α : Type} (n : Nat) (f : Nat → α) : Memory α := (List.range n).map fun i => (i, f i)

/-- The memory whose first elements hold a list and whose other elements are unspecified. -/
def Memory.ofList {α : Type} (vs : List α) : Memory α := Memory.writeAll [] 0 vs

/-! ### What an element without a value reads as -/

/-- THE ONE definition of what an unlisted element reads as: a free value, drawn anew by each transaction and
each command (93_implementation_defined.md U4 to U8; log 3). -/
def State.unspecified (s : State) (space : Space) (index : Nat) : Word :=
  Config.unspecified s.draws space.id.toNat index

/-- The value of `width` bits that an unlisted element reads as. -/
def State.unspecifiedField (s : State) (space : Space) (index width : Nat) : Nat :=
  (s.unspecified space index).toNat % 2 ^ width

/-! ### The memories as a command reads them (20_memory.md R76). An element has the width R61 gives it, so a read
returns that many bits of it. -/

/-- TEXT[t] (10_state.md R39, R46). -/
def State.textAt (s : State) (t : Nat) : Symbol :=
  ((s.text.read t).getD (s.unspecified .text t).toNat) % 2 ^ s.params.symW

/-- STREAM[k] (10_state.md R40, R46). -/
def State.streamAt (s : State) (k : Nat) : Bit :=
  (s.stream.read k).getD ((s.unspecified .stream k).getLsbD 0)

/-- OUT[t] (10_state.md R41, R46). -/
def State.outAt (s : State) (t : Nat) : Symbol :=
  ((s.out.read t).getD (s.unspecified .out t).toNat) % 2 ^ s.params.symW

/-- FREQ[x] (10_state.md R36). -/
def State.freqAt (s : State) (x : Symbol) : Nat :=
  ((s.freq.read x).getD (s.unspecified .freq x).toNat) % 2 ^ s.params.wW

/-- What a NODE slot without a value reads as: five independent free fields of the widths of 10_state.md R33
(DEDUCED, log 5). -/
def State.unspecifiedNode (s : State) (i : Nat) : Node :=
  { tag := if (s.unspecified .node (8 * i)).getLsbD 0 then .internal else .leaf
    weight := s.unspecifiedField .node (8 * i + 1) s.params.wW
    sym := s.unspecifiedField .node (8 * i + 2) s.params.symW
    left := s.unspecifiedField .node (8 * i + 3) s.params.idxW
    right := s.unspecifiedField .node (8 * i + 4) s.params.idxW }

/-- NODE[i] (10_state.md R33). -/
def State.nodeAt (s : State) (i : Nat) : Node := (s.node.read i).getD (s.unspecifiedNode i)

/-- CODELEN[x]; an unspecified one is a value of its range 0 to MAXLEN, which is `SYM_W` bits (10_state.md R37,
00_scope.md R7; DEDUCED, log 5). -/
def State.codeLenAt (s : State) (x : Symbol) : Nat :=
  (s.codeLen.read x).getD (s.unspecifiedField .codeLen x s.params.symW)

/-- CODEBIT[j] (10_state.md R37). -/
def State.codeBitAt (s : State) (j : Nat) : Bit :=
  (s.codeBit.read j).getD ((s.unspecified .codeBit j).getLsbD 0)

/-- The slot ROOT names: bits `IDX_W-1:0` of the register, "the rest read 0" (10_state.md R28). -/
def State.rootSlot (s : State) : Nat := s.root.toNat % 2 ^ s.params.idxW

/-- "The SymbolSequence held in TEXT[0 .. TEXT_LEN−1]" (10_state.md R24, R39). -/
def State.textSymbols (s : State) : List Symbol := (List.range s.textLen.toNat).map s.textAt

/-- "The EncodedStream held in STREAM[0 .. STREAM_LEN−1]" (10_state.md R25, R40). -/
def State.streamBits (s : State) : List Bit := (List.range s.streamLen.toNat).map s.streamAt

/-- "OUT[0 .. OUT_LEN−1] is the SymbolSequence DECODE reconstructed" (10_state.md R41). -/
def State.outSymbols (s : State) : List Symbol := (List.range s.outLen.toNat).map s.outAt

/-- `code_of(x)` (10_state.md R38): the first CODELEN[x] bits of row `x`, the empty list for "absent". -/
def State.codeOf (s : State) (x : Symbol) : List Bit :=
  (List.range (s.codeLenAt x)).map fun i => s.codeBitAt (x * s.params.alpha + i)

/-! ### Draws -/

/-- The next event draws its free values anew (log 3). -/
def State.drawn (s : State) : State := { s with draws := s.draws + 1 }

/-! ### A command: issue, success, error (44_control.md R175, R176; 60_exceptions.md R202) -/

/-- Is a command in flight? -/
def State.busy (s : State) : Bool := decide (s.status.state = .busy)

/-- Issue(w): `CMD <- w ; STATUS.STATE <- BUSY`, and nothing else (44_control.md R175). -/
def State.issue (s : State) (w : Word) : State := { s with cmd := w, status := s.status.issued }

/-- The last line of a command that succeeds: `STATUS.ERR <- 0 ; ERR_INFO <- 0 ; STATUS.STATE <- DONE`. -/
def State.succeed (s : State) : State := { s with status := s.status.succeeded, errInfo := 0 }.drawn

/-- FREQ and NODE become unspecified. -/
def State.dropTree (s : State) : State := { s with freq := [], node := [] }

/-- CODELEN and CODEBIT become unspecified. -/
def State.dropTable (s : State) : State := { s with codeLen := [], codeBit := [] }

/-- "apply the command's own error effects" (60_exceptions.md R202). A memory that becomes unspecified is the
memory in which no element has a value (R203, log 3). -/
def State.errorEffects (s : State) : CmdError → State
  | .emptyInput => { s.dropTree.dropTable with status := s.status.treeLost, root := 0, nodeCnt := 0, nleaf := 0 }
  | .symbolNotInTable => { s with streamLen := 0, stream := [] }
  | .streamOverflow => { s with streamLen := 0, stream := [] }
  | .malformedStream => { s with outLen := 0, out := [] }
  | .outputOverflow => { s with outLen := 0, out := [] }
  | .illegalCommand => s
  | .noTree => s
  | .noTable => s

/-- ERR, ERR_INFO, STICKY and STATE at an error (60_exceptions.md R202). -/
def State.record (s : State) (e : CmdError) (info : Word) : State :=
  { s with status := s.status.failed e, errInfo := info }

/-- TAKING AN ERROR, `raise E(info)` (60_exceptions.md R202): the error's own effects, then ERR, ERR_INFO, STICKY
and STATE. "Nothing is saved ... Control does not go anywhere; the block simply becomes ready for the next
command". -/
def State.raise (s : State) (e : CmdError) (info : Word) : State := ((s.errorEffects e).record e info).drawn

/-! ### A transaction's answer (20_memory.md R60) -/

/-- Answer `fault` = 0 with `rdata` = `w`. -/
def State.answerWith (s : State) (w : Word) : State := { s with answer := some { fault := false, rdata := w } }.drawn

/-- Answer `fault` = 0 to a WR, whose `rdata` is any value (93_implementation_defined.md U15; log 4). -/
def State.acknowledge (s : State) : State := s.answerWith (Config.unspecifiedAnswer s.draws)

/-- AccessFault (60_exceptions.md R195): "nothing in the block has changed and `rdata` is unspecified". -/
def State.accessFault (s : State) : State :=
  { s with answer := some { fault := true, rdata := Config.unspecifiedAnswer s.draws } }.drawn

/-! ### Reset -/

/-- `rst` sampled high (70_reset_and_hazards.md R220): the state of 10_state.md R44; the parameters, and what the
outside world presents afterwards, are no state of the block (logs 1, 2); a transaction in progress "is dropped
without an answer" (log 6). -/
def State.resetNow (s : State) : State :=
  { State.reset with params := s.params, pending := s.pending, draws := s.draws }.drawn

end Sys2Proof.Machine
end

