-- ==== Sys2Proof/Machine/Operands.lean ====
section
/-! DEFINITION. Machine/Operands.lean: the operand `(space, index)` of a transaction: which indices are legal
(20_memory.md R61), which elements the host may write (R64, 10_state.md R20), and the element it names as the
32-bit word a RD returns. -/

namespace Sys2Proof

/-- The register numbers (10_state.md R20); "Register numbers 10 and above do not exist". -/
def Reg.ofNumber? : Nat → Option Reg
  | 0 => some .cmd
  | 1 => some .status
  | 2 => some .cfg
  | 3 => some .textLen
  | 4 => some .streamLen
  | 5 => some .outLen
  | 6 => some .root
  | 7 => some .nodeCnt
  | 8 => some .nleaf
  | 9 => some .errInfo
  | _ => none

/-- The registers a host may write: CMD, CFG, TEXT_LEN, STREAM_LEN (10_state.md R20). -/
def Reg.hostWritable : Reg → Bool
  | .cmd => true
  | .cfg => true
  | .textLen => true
  | .streamLen => true
  | .status => false
  | .outLen => false
  | .root => false
  | .nodeCnt => false
  | .nleaf => false
  | .errInfo => false

/-- The legal indices of each space (20_memory.md R61); for NODE, `8 * i + f` with `i` < MAXNODE and `f` ≤ 4
(10_state.md R33). -/
def legalIndex (p : Params) (space : Space) (index : Nat) : Bool :=
  match space with
  | .reg => (Reg.ofNumber? index).isSome
  | .text => decide (index < p.maxText)
  | .stream => decide (index < p.maxStream)
  | .out => decide (index < p.maxText)
  | .freq => decide (index < p.alpha)
  | .node => decide (index / 8 < p.maxNode) && decide (index % 8 < 5)
  | .codeLen => decide (index < p.alpha)
  | .codeBit => decide (index < p.alpha * p.alpha)

/-- The host's write right to an element (20_memory.md R64 step 3): none in spaces 3 to 7, per register in REG. -/
def hostWritable (space : Space) (index : Nat) : Bool :=
  match space with
  | .reg => match Reg.ofNumber? index with
    | some r => r.hostWritable
    | none => false
  | .text => true
  | .stream => true
  | .out => false
  | .freq => false
  | .node => false
  | .codeLen => false
  | .codeBit => false

end Sys2Proof

namespace Sys2Proof.Machine

/-- Field `f` of a node slot, `w` bits wide as 10_state.md R33 gives them, zero-extended. -/
def Node.field (p : Params) (n : Node) : Nat → Word
  | 0 => if n.tag = .internal then 1 else 0
  | 1 => BitVec.ofNat 32 (n.weight % 2 ^ p.wW)
  | 2 => BitVec.ofNat 32 (n.sym % 2 ^ p.symW)
  | 3 => BitVec.ofNat 32 (n.left % 2 ^ p.idxW)
  | _ => BitVec.ofNat 32 (n.right % 2 ^ p.idxW)

/-- A bit zero-extended to 32 bits. -/
def bitWord (b : Bit) : Word := if b then 1 else 0

/-- A register as the host reads it: "All registers are readable" (20_memory.md R63; 10_state.md R20). -/
def State.regWord (s : State) : Reg → Word
  | .cmd => s.cmd
  | .status => s.status.word
  | .cfg => s.cfg.word
  | .textLen => s.textLen
  | .streamLen => s.streamLen
  | .outLen => s.outLen
  | .root => BitVec.ofNat 32 s.rootSlot
  | .nodeCnt => s.nodeCnt
  | .nleaf => s.nleaf
  | .errInfo => s.errInfo

/-- NODE slot `i` as the host sees it: slots at or above NODE_CNT, and every slot while TREE_VALID = 0, "read as
unspecified values" (10_state.md R33). -/
def State.hostNode (s : State) (i : Nat) : Node :=
  if s.status.treeValid && decide (i < s.nodeCnt.toNat) then s.nodeAt i else s.unspecifiedNode i

/-- FREQ[x] as the host sees it (10_state.md R36). -/
def State.hostFreq (s : State) (x : Nat) : Nat :=
  if s.status.treeValid then s.freqAt x else s.unspecifiedField .freq x s.params.wW

/-- CODELEN[x] as the host sees it (10_state.md R37). -/
def State.hostCodeLen (s : State) (x : Nat) : Nat :=
  if s.status.tableValid then s.codeLenAt x else s.unspecifiedField .codeLen x s.params.symW

/-- CODEBIT[j] as the host sees it: bits at or beyond the code's length, and every bit while TABLE_VALID = 0,
read as unspecified values (10_state.md R37). -/
def State.hostCodeBit (s : State) (j : Nat) : Bit :=
  if s.status.tableValid && decide (j % s.params.alpha < s.codeLenAt (j / s.params.alpha)) then s.codeBitAt j
  else (s.unspecified .codeBit j).getLsbD 0

/-- The element a RD returns, zero-extended to 32 bits (20_memory.md R63 step 3). An index that is no register is
never read: it is not legal. -/
def State.element (s : State) (space : Space) (index : Nat) : Word :=
  match space with
  | .reg => match Reg.ofNumber? index with
    | some r => s.regWord r
    | none => s.unspecified .reg index
  | .text => BitVec.ofNat 32 (s.textAt index)
  | .stream => bitWord (s.streamAt index)
  | .out => BitVec.ofNat 32 (s.outAt index)
  | .freq => BitVec.ofNat 32 (s.hostFreq index)
  | .node => (s.hostNode (index / 8)).field s.params (index % 8)
  | .codeLen => BitVec.ofNat 32 (s.hostCodeLen index)
  | .codeBit => bitWord (s.hostCodeBit index)

end Sys2Proof.Machine
end

