-- ==== Sys2Proof/Machine/Build.lean ====
section
/-! DEFINITION. Machine/Build.lean: the meaning of BUILD, the Frequency Counter and the Huffman Tree Builder
(40_build.md R110 to R127). -/

namespace Sys2Proof.Machine

/-! ### The Frequency Counter (R111) -/

/-- `FREQ[x] <- FREQ[x] + 1`. -/
def countSymbol (freq : Memory Nat) (x : Symbol) : Memory Nat :=
  freq.write x ((freq.read x).getD 0 + 1)

/-- CountFrequencies: all `ALPHA` counts to 0, then one increment per text position, in order (R111). -/
def countFrequencies (alpha : Nat) (text : List Symbol) : Memory Nat :=
  text.foldl countSymbol (Memory.table alpha fun _ => 0)

/-- The count of a symbol in a table just made by `countFrequencies`. -/
def countOf (freq : Memory Nat) (x : Symbol) : Nat := (freq.read x).getD 0

/-! ### Seeding (R113) -/

/-- `S`: "the symbols with FREQ > 0 in ascending order" (R113). -/
def presentSymbols (alpha : Nat) (freq : Memory Nat) : List Symbol :=
  (List.range alpha).filter fun x => decide (0 < countOf freq x)

/-- A Leaf's five fields (R113, 10_state.md R33). -/
def leafNode (weight : Nat) (sym : Symbol) : Node := { tag := .leaf, weight, sym, left := 0, right := 0 }

/-- An Internal node's five fields (R117, 10_state.md R33). -/
def internalNode (weight left right : Nat) : Node := { tag := .internal, weight, sym := 0, left, right }

/-- A member of the priority collection Q: a slot, with the node it holds. -/
structure Entry where
  slot : Nat
  node : Node
  deriving DecidableEq, Repr

/-- The builder's working values (10_state.md R45): the NODE slots written so far (`next` is their number) and
the priority collection Q. -/
structure Builder where
  nodes : List Node
  queue : List Entry
  deriving DecidableEq, Repr

/-- SeedLeaves: the k-th present symbol's Leaf in slot k, all of them in Q (R113). -/
def seedLeaves (freq : Memory Nat) (symbols : List Symbol) : Builder :=
  { nodes := symbols.map fun x => leafNode (countOf freq x) x
    queue := symbols.zipIdx.map fun (x, k) => { slot := k, node := leafNode (countOf freq x) x } }

/-! ### The priority order (R115, R116) -/

/-- `before(i, j)`: ascending weight; a Leaf before an Internal node; two Leaves by symbol; two Internal nodes by
creation order (R115, decision D9; log 8). -/
def before (i j : Entry) : Bool :=
  decide (i.node.weight < j.node.weight)
  || (decide (i.node.weight = j.node.weight) && decide (i.node.tag = .leaf) && decide (j.node.tag = .internal))
  || (decide (i.node.weight = j.node.weight) && decide (i.node.tag = .leaf) && decide (j.node.tag = .leaf)
      && decide (i.node.sym < j.node.sym))
  || (decide (i.node.weight = j.node.weight) && decide (i.node.tag = .internal) && decide (j.node.tag = .internal)
      && decide (i.slot < j.slot))

/-- `min(Q)` by a list scan, starting from one member (R115, R116: "a model may use a list scan"). -/
def minEntry (first : Entry) (others : List Entry) : Entry :=
  others.foldl (fun best e => if before e best then e else best) first

/-- `n <- min(Q) ; Q <- Q \ {n}` (R117); `none` if Q is empty. -/
def extractMin : List Entry → Option (Entry × List Entry)
  | [] => none
  | e :: es => some (minEntry e es, (e :: es).erase (minEntry e es))

/-! ### Merging (R117 to R121) -/

/-- The Internal node over `l` (left child) and `r` (right child) (R117, R118). -/
def mergedNode (l r : Entry) : Node := internalNode (l.node.weight + r.node.weight) l.slot r.slot

/-- Make the next slot the Internal node over `l` (left child) and `r` (right child) and put it into Q, which has
lost both (R117, R118, R120). -/
def Builder.merge (b : Builder) (rest : List Entry) (l r : Entry) : Builder :=
  { nodes := b.nodes ++ [mergedNode l r]
    queue := rest ++ [{ slot := b.nodes.length, node := mergedNode l r }] }

/-- One pass of MergeLoop: the first extracted is the left child (R117, R118); `none` when |Q| ≤ 1. -/
def Builder.pass (b : Builder) : Option Builder :=
  match extractMin b.queue with
  | none => none
  | some (n1, rest1) =>
    match extractMin rest1 with
    | none => none
    | some (n2, rest2) => some (b.merge rest2 n1 n2)

/-- MergeLoop: passes while |Q| > 1, at most `fuel` of them; |Q| falls by one with each (R117). -/
def mergeLoop : Nat → Builder → Builder
  | 0, b => b
  | fuel + 1, b =>
    match b.pass with
    | none => b
    | some b' => mergeLoop fuel b'

/-- LegacyPremerge: the Leaves of the two designated symbols become the children, left and right, of the first
Internal node (R119). Without both Leaves there is nothing to merge. -/
def legacyPremerge (p : Params) (b : Builder) : Builder :=
  match b.queue.find? (fun e => e.node.sym = p.legacySymL), b.queue.find? (fun e => e.node.sym = p.legacySymR) with
  | some c, some d => b.merge ((b.queue.erase c).erase d) c d
  | _, _ => b

/-- Does the legacy rule apply? (R119) -/
def legacyApplies (p : Params) (legacyCd : Bool) (freq : Memory Nat) : Bool :=
  legacyCd && decide (0 < countOf freq p.legacySymL) && decide (0 < countOf freq p.legacySymR)

/-- The builder before MergeLoop: the legacy rule's node is made first, if the rule applies (R110, R119). -/
def startMerging (p : Params) (legacyCd : Bool) (freq : Memory Nat) (seeded : Builder) : Builder :=
  if legacyApplies p legacyCd freq then legacyPremerge p seeded else seeded

/-- MergeLoop with one pass for each member of Q, which is more than it needs (R117). -/
def Builder.mergeAll (b : Builder) : Builder := mergeLoop b.queue.length b

/-- The tree of the seeded Leaves: the one Leaf alone if N = 1 (R114), else the merges (R110). -/
def finishTree (p : Params) (legacyCd : Bool) (freq : Memory Nat) (seeded : Builder) : Builder :=
  if seeded.nodes.length = 1 then seeded else (startMerging p legacyCd freq seeded).mergeAll

/-- From the counts to the finished tree (R110). -/
def buildNodes (p : Params) (legacyCd : Bool) (freq : Memory Nat) : Builder :=
  finishTree p legacyCd freq (seedLeaves freq (presentSymbols p.alpha freq))

/-- "ROOT <- the one index left in Q" (R110, R122); with N = 1 that is slot 0 (R114). -/
def Builder.rootSlot (b : Builder) : Nat :=
  match b.queue with
  | [] => 0
  | e :: _ => e.slot

/-- What a successful BUILD writes (R110, R125), from the counts and the builder's result; NODE slots 2N − 1 and up
are unspecified. -/
def State.treeWritten (s : State) (freq : Memory Nat) (b : Builder) : State :=
  { s.dropTable with
    freq := freq
    node := Memory.ofList b.nodes
    root := BitVec.ofNat 32 b.rootSlot
    nleaf := BitVec.ofNat 32 (presentSymbols s.params.alpha freq).length
    nodeCnt := BitVec.ofNat 32 (2 * (presentSymbols s.params.alpha freq).length - 1)
    status := s.status.treeBuilt }

/-- The counts BUILD makes of the text it reads. -/
def State.textCounts (s : State) : Memory Nat := countFrequencies s.params.alpha s.textSymbols

/-- BUILD (R110), as its completion step: EmptyInput if TEXT_LEN = 0, and no other error (R112). -/
def execBuild (s : State) : Host.Outcome State Fault Refusal :=
  if s.textLen = 0 then .next (s.raise .emptyInput 0)
  else .next (s.treeWritten s.textCounts (buildNodes s.params s.cfg.legacyCd s.textCounts)).succeed

end Sys2Proof.Machine
end

