-- ==== Sys2Proof/Machine/Control.lean ====
section
/-! DEFINITION. Machine/Control.lean: the meaning of CLEAR (44_control.md R178). -/

namespace Sys2Proof.Machine

/-- CLEAR (R178): every register but CMD and CFG to 0; FREQ, NODE, CODELEN and CODEBIT become unspecified; TEXT,
STREAM and OUT keep their contents. It always succeeds, and ends in STATE = IDLE. -/
def State.clearNow (s : State) : State :=
  { s.dropTree.dropTable with
    textLen := 0, streamLen := 0, outLen := 0
    root := 0, nodeCnt := 0, nleaf := 0
    errInfo := 0
    status := Status.cleared }

/-- CLEAR, as its completion step (R178). -/
def execClear (s : State) : Host.Outcome State Fault Refusal := .next s.clearNow.drawn

end Sys2Proof.Machine
end

