-- ==== Sys2Proof/Machine/Decoder.lean ====
section
/-! DEFINITION. Machine/Decoder.lean: the meaning of DECODE, the Decoder (43_decode.md R160 to R169). -/

namespace Sys2Proof.Machine

/-- The loop of DECODE on a degenerate tree, from stream index `k` with `n` symbols emitted (R160, R161): one
`x` per bit, whatever the bit; OutputOverflow when there is no room for the next symbol (R166). -/
def decodeDegenerate (x : Symbol) (maxText : Nat) : Nat → Nat → List Bit → Except (CmdError × Nat) (List Symbol)
  | _, _, [] => .ok []
  | k, n, _ :: bits =>
    if n = maxText then .error (.outputOverflow, k)
    else
      match decodeDegenerate x maxText (k + 1) (n + 1) bits with
      | .ok xs => .ok (x :: xs)
      | .error e => .error e

/-- The child a bit leads to: `if STREAM[k] = 0 then left else right` (R162). -/
def Node.child (n : Node) (b : Bit) : Nat := if b then n.right else n.left

/-- The loop of DECODE on a tree with branches (R160, R162 to R164, R166): `k` the stream index, `cur` the current
slot, `start` the index of the first bit of the code in progress, `n` the symbols emitted. A symbol is emitted on
arriving at a Leaf, and the walk returns to the root in the same step (R163); a stream that ends elsewhere is
malformed (R164). -/
def decodeLoop (node : Nat → Node) (root maxText : Nat) :
    Nat → Nat → Nat → Nat → List Bit → Except (CmdError × Nat) (List Symbol)
  | _, cur, start, _, [] => if cur = root then .ok [] else .error (.malformedStream, start)
  | k, cur, start, n, b :: bits =>
    match (node ((node cur).child b)).tag with
    | .leaf =>
      if n = maxText then .error (.outputOverflow, k)
      else
        match decodeLoop node root maxText (k + 1) root (k + 1) (n + 1) bits with
        | .ok xs => .ok ((node ((node cur).child b)).sym :: xs)
        | .error e => .error e
    | .internal => decodeLoop node root maxText (k + 1) ((node cur).child b) start n bits

/-- What DECODE computes from the state (R160). -/
def State.decoding (s : State) : Except (CmdError × Nat) (List Symbol) :=
  match (s.nodeAt s.rootSlot).tag with
  | .leaf => decodeDegenerate (s.nodeAt s.rootSlot).sym s.params.maxText 0 0 s.streamBits
  | .internal => decodeLoop s.nodeAt s.rootSlot s.params.maxText 0 s.rootSlot 0 0 s.streamBits

/-- `OUT[n] <- s` for every symbol, and `OUT_LEN <- n`; the elements beyond are unchanged (R169). -/
def State.outWritten (s : State) (xs : List Symbol) : State :=
  { s with out := s.out.writeAll 0 xs, outLen := BitVec.ofNat 32 xs.length }

/-- DECODE (R160), as its completion step: NoTree first (R167), then the loop. It needs no code table. -/
def execDecode (s : State) : Host.Outcome State Fault Refusal :=
  if s.status.treeValid then
    match s.decoding with
    | .ok xs => .next (s.outWritten xs).succeed
    | .error (e, info) => .next (s.raise e (BitVec.ofNat 32 info))
  else .next (s.raise .noTree 0)

end Sys2Proof.Machine
end

