-- ==== Sys2Proof/Machine/Encoder.lean ====
section
/-! DEFINITION. Machine/Encoder.lean: the meaning of ENCODE, the Encoder (42_encode.md R150 to R156). -/

namespace Sys2Proof.Machine

/-- The loop of ENCODE from text index `t` and stream position `pos` (R150): the bits it writes from `pos` on, or
the first error it meets with its ERR_INFO. For one symbol the absence check comes before the capacity check
(R153, 60_exceptions.md R199). -/
def encodeLoop (codeOf : Symbol → List Bit) (maxStream : Nat) :
    Nat → Nat → List Symbol → Except (CmdError × Nat) (List Bit)
  | _, _, [] => .ok []
  | t, pos, x :: rest =>
    if codeOf x = [] then .error (.symbolNotInTable, t)
    else if pos + (codeOf x).length > maxStream then .error (.streamOverflow, t)
    else
      match encodeLoop codeOf maxStream (t + 1) (pos + (codeOf x).length) rest with
      | .ok bits => .ok (codeOf x ++ bits)
      | .error e => .error e

/-- What ENCODE computes from the state. -/
def State.encoding (s : State) : Except (CmdError × Nat) (List Bit) :=
  encodeLoop s.codeOf s.params.maxStream 0 0 s.textSymbols

/-- `STREAM[pos + i] <- ...` for the whole stream, and `STREAM_LEN <- pos`; the elements beyond keep whatever
they held before (R151, R156). -/
def State.streamWritten (s : State) (bits : List Bit) : State :=
  { s with stream := s.stream.writeAll 0 bits, streamLen := BitVec.ofNat 32 bits.length }

/-- ENCODE (R150), as its completion step: NoTable first (R154), then the loop. -/
def execEncode (s : State) : Host.Outcome State Fault Refusal :=
  if s.status.tableValid then
    match s.encoding with
    | .ok bits => .next (s.streamWritten bits).succeed
    | .error (e, t) => .next (s.raise e (BitVec.ofNat 32 t))
  else .next (s.raise .noTable 0)

end Sys2Proof.Machine
end

