-- ==== Sys2Proof/Machine/Gentab.lean ====
section
/-! DEFINITION. Machine/Gentab.lean: the meaning of GENTAB, the Code Table Generator (41_gentab.md R140 to R145). -/

namespace Sys2Proof.Machine

/-- `Walk(n, p)` (R140): the calls of `SetCode(symbol, path)` it makes, in order. The walk descends at most
`depth` edges; in a tree of at most MAXNODE nodes that bound is never reached (44_control.md R177, log 7). -/
def walk (node : Nat → Node) : Nat → Nat → List Bit → List (Symbol × List Bit)
  | 0, n, path => [((node n).sym, path)]
  | depth + 1, n, path =>
    match (node n).tag with
    | .leaf => [((node n).sym, path)]
    | .internal =>
      walk node depth (node n).left (path ++ [false]) ++ walk node depth (node n).right (path ++ [true])

/-- The two tables GENTAB writes. -/
structure CodeTables where
  codeLen : Memory Nat
  codeBit : Memory Bit
  deriving DecidableEq, Repr

/-- `for s in 0 .. ALPHA-1: CODELEN[s] <- 0` (R140); CODEBIT holds nothing yet. -/
def emptyTables (alpha : Nat) : CodeTables := { codeLen := Memory.table alpha fun _ => 0, codeBit := [] }

/-- `SetCode(x, p)` (R140, R143). -/
def setCode (alpha : Nat) (t : CodeTables) (entry : Symbol × List Bit) : CodeTables :=
  { codeLen := t.codeLen.write entry.1 entry.2.length
    codeBit := t.codeBit.writeAll (entry.1 * alpha) entry.2 }

/-- The calls of SetCode for the tree in NODE: the one code "0" of the degenerate tree (R142), else the walk. -/
def State.codeCalls (s : State) : List (Symbol × List Bit) :=
  match (s.nodeAt s.rootSlot).tag with
  | .leaf => [((s.nodeAt s.rootSlot).sym, [false])]
  | .internal => walk s.nodeAt s.params.maxNode s.rootSlot []

/-- CODELEN and CODEBIT after GENTAB. CODEBIT elements at or beyond a code's length are unspecified (R143). -/
def State.codeTables (s : State) : CodeTables :=
  s.codeCalls.foldl (setCode s.params.alpha) (emptyTables s.params.alpha)

/-- What a successful GENTAB writes (R140). -/
def State.tableWritten (s : State) (t : CodeTables) : State :=
  { s with codeLen := t.codeLen, codeBit := t.codeBit, status := s.status.tableBuilt }

/-- GENTAB (R140), as its completion step: NoTree if TREE_VALID = 0, and no other error (R145). -/
def execGentab (s : State) : Host.Outcome State Fault Refusal :=
  if s.status.treeValid then .next (s.tableWritten s.codeTables).succeed
  else .next (s.raise .noTree 0)

end Sys2Proof.Machine
end

