-- ==== Sys2Proof/Machine/Transactions.lean ====
section
/-! DEFINITION. Machine/Transactions.lean: the meanings of the host transactions RD and WR (20_memory.md R63, R64;
60_exceptions.md R195). An AccessFault is an answer, after which the machine goes on. -/

namespace Sys2Proof.Machine

/-- RD (20_memory.md R63): while BUSY only STATUS may be read; an illegal index is an AccessFault; otherwise the
answer is the element. No space changes. -/
def execRd (space : Space) (index : Nat) (s : State) : Host.Outcome State Fault Refusal :=
  if s.busy && !(decide (space = .reg) && decide (index = 1)) then .next s.accessFault
  else if !legalIndex s.params space index then .next s.accessFault
  else .next (s.answerWith (s.element space index))

/-- A WR of a register the host may write (20_memory.md R64 step 4): CMD issues; CFG keeps bit 0; a length above
the capacity is an AccessFault. -/
def State.writeReg (s : State) (r : Reg) (wdata : Word) : State :=
  match r with
  | .cmd => (s.issue wdata).acknowledge
  | .cfg => { s with cfg := Cfg.ofWord wdata }.acknowledge
  | .textLen => if wdata.toNat > s.params.maxText then s.accessFault else { s with textLen := wdata }.acknowledge
  | .streamLen => if wdata.toNat > s.params.maxStream then s.accessFault else { s with streamLen := wdata }.acknowledge
  | .status => s.accessFault
  | .outLen => s.accessFault
  | .root => s.accessFault
  | .nodeCnt => s.accessFault
  | .nleaf => s.accessFault
  | .errInfo => s.accessFault

/-- A WR of an element the host may write, by space (20_memory.md R64 step 4): the bits of `wdata` above the
element's width are ignored. -/
def State.writeElement (s : State) (space : Space) (index : Nat) (wdata : Word) : State :=
  match space with
  | .reg => match Reg.ofNumber? index with
    | some r => s.writeReg r wdata
    | none => s.accessFault
  | .text => { s with text := s.text.write index (wdata.toNat % 2 ^ s.params.symW) }.acknowledge
  | .stream => { s with stream := s.stream.write index (wdata.getLsbD 0) }.acknowledge
  | .out => s.accessFault
  | .freq => s.accessFault
  | .node => s.accessFault
  | .codeLen => s.accessFault
  | .codeBit => s.accessFault

/-- WR (20_memory.md R64), the steps in the rule's order. -/
def execWr (space : Space) (index : Nat) (wdata : Word) (s : State) : Host.Outcome State Fault Refusal :=
  if s.busy then .next s.accessFault
  else if !legalIndex s.params space index then .next s.accessFault
  else if !hostWritable space index then .next s.accessFault
  else .next (s.writeElement space index wdata)

end Sys2Proof.Machine
end

