-- ==== Sys2Proof/Machine/Dispatch.lean ====
section
/-! DEFINITION. Machine/Dispatch.lean: one arm per instruction. A command's meaning is its completion step
(44_control.md R176); a transaction's is its answer. -/

namespace Sys2Proof.Machine

def exec (i : Instr) (s : State) : Host.Outcome State Fault Refusal :=
  match i with
  | .build => Sys2Proof.Machine.execBuild s
  | .gentab => Sys2Proof.Machine.execGentab s
  | .encode => Sys2Proof.Machine.execEncode s
  | .decode => Sys2Proof.Machine.execDecode s
  | .clear => Sys2Proof.Machine.execClear s
  | .rd space index => Sys2Proof.Machine.execRd space index s
  | .wr space index wdata => Sys2Proof.Machine.execWr space index wdata s

end Sys2Proof.Machine
end

