-- ==== Sys2Proof/Machine/Sequencer.lean ====
section
/-! DEFINITION. Machine/Sequencer.lean: which event comes next and what it asks for (20_memory.md R70, 44_control.md
R175 to R177, R180), and how an instruction's word is placed there. -/

namespace Sys2Proof.Machine

/-- What one step does: run an instruction in a state, or just go to a state. -/
inductive Action
  | run (i : Instr) (s : State)
  | settle (s : State)
  deriving DecidableEq, Repr

/-- The core's one step, enabled only while BUSY (44_control.md R176): run the command in CMD, or raise
IllegalCommand with the word (R179). "When STATE != BUSY the core has no step". -/
def State.complete (s : State) : Action :=
  if s.busy then
    match decodeCommand s.cmd with
    | .ok i => .run i s
    | .error (.illegalCommand w) => .settle (s.raise .illegalCommand w)
  else .settle s

/-- The next event. With nothing presented the core completes what is in flight (44_control.md R177), and a block
that is not BUSY does nothing by itself (70_reset_and_hazards.md R222) (log 2). -/
def State.nextAction (s : State) : Action :=
  match s.pending with
  | [] => s.complete
  | .transaction w :: rest => .run (decodeTransaction w) { s with pending := rest }
  | .completion :: rest => { s with pending := rest }.complete
  | .reset :: rest => .settle { s with pending := rest }.resetNow

/-- A command word in flight, its completion next; or a transaction presented next (log 2). -/
def State.placeWord (s : State) (nbits w : Nat) : State :=
  if nbits ≤ 32 then
    { s with
      cmd := BitVec.ofNat 32 w
      status := s.status.issued
      pending := .completion :: s.pending }
  else { s with pending := .transaction (BitVec.ofNat 68 w) :: s.pending }

end Sys2Proof.Machine
end

