-- ==== Sys2Proof/Machine/Step.lean ====
section
/-! DEFINITION. Machine/Step.lean: one step of the block: one event of the total order of 20_memory.md R70. -/

namespace Sys2Proof.Machine

/-- One event: a transaction answered, a command completed, or a reset (20_memory.md R70). -/
def step (s : State) : Host.Outcome State Fault Refusal :=
  match s.nextAction with
  | .run i t => exec i t
  | .settle t => .next t

/-- `s` with an instruction's word placed where the next step takes it (log 2): a command word is in CMD with
STATE = BUSY and its completion is the next event; a transaction is the next one presented at the port. -/
def State.withFetchWord (s : State) (nbits w : Nat) : State := s.placeWord nbits w

end Sys2Proof.Machine
end

