-- ==== Sys2Proof/Machine/Tree.lean ====
section
/-! DEFINITION. Machine/Tree.lean: the abstract values the rules speak of (00_scope.md R12): the Tree a NODE table
represents (10_state.md R34), its code table (41_gentab.md R141), encoding as concatenation (42_encode.md R151). The
statements are written with them; the meanings follow the spec's pseudocode on the tables. -/

namespace Sys2Proof.Machine

/-- "either `Leaf(weight, sym)` or `Internal(weight, left, right)` with `left` and `right` Trees" (R12). -/
inductive Tree
  | leaf (weight : Nat) (sym : Symbol)
  | internal (weight : Nat) (left right : Tree)
  deriving DecidableEq, Repr

/-- The weight of a tree's root. -/
def Tree.weight : Tree → Nat
  | .leaf w _ => w
  | .internal w _ _ => w

/-- The symbols of a tree's Leaves, from left to right. -/
def Tree.symbols : Tree → List Symbol
  | .leaf _ x => [x]
  | .internal _ l r => l.symbols ++ r.symbols

/-- `tree_of(i)` (10_state.md R34), descending at most `depth` edges. "The recursion ends because every child
index is smaller than its parent's index": under R35 the bound `MAXNODE` is never reached (log 7). -/
def treeOf (node : Nat → Node) : Nat → Nat → Tree
  | 0, i => .leaf (node i).weight (node i).sym
  | depth + 1, i =>
    match (node i).tag with
    | .leaf => .leaf (node i).weight (node i).sym
    | .internal => .internal (node i).weight (treeOf node depth (node i).left) (treeOf node depth (node i).right)

/-- "While TREE_VALID = 1 the tree the block holds is `tree_of(ROOT)`" (10_state.md R34). -/
def State.tree (s : State) : Tree := treeOf s.nodeAt s.params.maxNode s.rootSlot

/-- `codes(t, p)` (41_gentab.md R141) as a list of pairs: each Leaf's symbol with its path, left edge 0, right
edge 1. -/
def Tree.codes : Tree → List Bit → List (Symbol × List Bit)
  | .leaf _ x, path => [(x, path)]
  | .internal _ l r, path => l.codes (path ++ [false]) ++ r.codes (path ++ [true])

/-- `table(t)` (41_gentab.md R141): the degenerate tree's one symbol has the code "0" (R142). -/
def Tree.table : Tree → List (Symbol × List Bit)
  | .leaf _ x => [(x, [false])]
  | .internal w l r => (Tree.internal w l r).codes []

/-- The code a table gives a symbol, the empty list for "absent" (10_state.md R37). -/
def codeIn (table : List (Symbol × List Bit)) (x : Symbol) : List Bit := (table.lookup x).getD []

/-- `encode([s0, s1, ...]) = code_of(s0) ++ code_of(s1) ++ ...` (42_encode.md R151). -/
def concatCodes (codeOf : Symbol → List Bit) (text : List Symbol) : List Bit := text.flatMap codeOf

/-- "neither code is a prefix of the other" (41_gentab.md R144). -/
def PrefixFree (codeOf : Symbol → List Bit) (symbols : List Symbol) : Prop :=
  ∀ x ∈ symbols, ∀ y ∈ symbols, x ≠ y → ¬ (codeOf x <+: codeOf y)

/-- `step(cur, b)` of the decoder on the abstract tree, folded over the bits (43_decode.md R162, R163): the symbols
emitted, and the bits of the code in progress at the end (none if the walk stands at the root). `inCode` holds the
bits consumed since the root. -/
def Tree.decodeFrom (root : Tree) : Tree → List Bit → List Bit → List Symbol × List Bit
  | _, inCode, [] => ([], inCode)
  | .leaf _ _, inCode, _ :: _ => ([], inCode)
  | .internal _ l r, inCode, b :: bits =>
    match if b then r else l with
    | .leaf _ x => (x :: (root.decodeFrom root [] bits).1, (root.decodeFrom root [] bits).2)
    | .internal w l' r' => root.decodeFrom (.internal w l' r') (inCode ++ [b]) bits

/-- The symbols a bit sequence decodes to, and the bits of its incomplete last code (43_decode.md R162, R164). -/
def Tree.decodeBits (t : Tree) (bits : List Bit) : List Symbol × List Bit := t.decodeFrom t [] bits

end Sys2Proof.Machine
end

