-- ==== Sys2Proof/Safety.lean ====
section
/-! DEFINITION. Safety.lean: the terms the statements are written in: what a state's tables hold (10_state.md R35,
R38), the invariant of the block, the states a run reaches, and what a step leaves unchanged. -/

namespace Sys2Proof.Machine

/-! ### What the tables hold -/

/-- The Internal slots of which slot `j` is a child. -/
def State.parentsOf (s : State) (j : Nat) : List Nat :=
  (List.range s.nodeCnt.toNat).filter fun i =>
    decide ((s.nodeAt i).tag = .internal) && (decide ((s.nodeAt i).left = j) || decide ((s.nodeAt i).right = j))

/-- The sum of all counts. -/
def State.freqTotal (s : State) : Nat := ((List.range s.params.alpha).map s.freqAt).sum

/-- The invariant of 10_state.md R35, "holding whenever TREE_VALID = 1", with N = NLEAF. Its last clause there
speaks of "the TEXT_LEN that BUILD read", which the state no longer holds; here the root's weight is the sum of the
counts, and what BUILD read is in the statement about BUILD. `slots` and `counts` say that the elements have a
value, so that no free value is read. -/
structure State.HoldsTree (s : State) : Prop where
  leaves : 1 ≤ s.nleaf.toNat ∧ s.nleaf.toNat ≤ s.params.alpha
  nodeCnt : s.nodeCnt.toNat = 2 * s.nleaf.toNat - 1
  slots : s.node.map Prod.fst = List.range (2 * s.nleaf.toNat - 1)
  counts : s.freq.map Prod.fst = List.range s.params.alpha
  leaf : ∀ k < s.nleaf.toNat,
    (s.nodeAt k).tag = .leaf ∧ (s.nodeAt k).weight = s.freqAt (s.nodeAt k).sym ∧
      (s.nodeAt k).left = 0 ∧ (s.nodeAt k).right = 0
  symbols : ((List.range s.nleaf.toNat).map fun k => (s.nodeAt k).sym) =
    (List.range s.params.alpha).filter fun x => decide (0 < s.freqAt x)
  internal : ∀ i < 2 * s.nleaf.toNat - 1, s.nleaf.toNat ≤ i →
    (s.nodeAt i).tag = .internal ∧ (s.nodeAt i).sym = 0 ∧
      (s.nodeAt i).left < i ∧ (s.nodeAt i).right < i ∧ (s.nodeAt i).left ≠ (s.nodeAt i).right ∧
      (s.nodeAt i).weight = (s.nodeAt (s.nodeAt i).left).weight + (s.nodeAt (s.nodeAt i).right).weight
  oneParent : ∀ j < 2 * s.nleaf.toNat - 1, j ≠ s.rootSlot → (s.parentsOf j).length = 1
  rootFree : s.parentsOf s.rootSlot = []
  root : s.root.toNat = if s.nleaf.toNat = 1 then 0 else 2 * s.nleaf.toNat - 2
  rootWeight : (s.nodeAt s.rootSlot).weight = s.freqTotal
  total : s.freqTotal ≤ s.params.maxText

/-- The invariant of 10_state.md R38, "holding whenever TABLE_VALID = 1": `code_of` is exactly the table of the
tree in NODE (41_gentab.md R141). `lengths` and `bits` say which elements have a value (R37, R143). -/
structure State.HoldsTable (s : State) : Prop where
  lengths : s.codeLen.map Prod.fst = List.range s.params.alpha
  bits : ∀ x < s.params.alpha, ∀ i < s.params.alpha,
    (s.codeBit.read (x * s.params.alpha + i)).isSome = decide (i < s.codeLenAt x)
  codes : ∀ x < s.params.alpha, s.codeOf x = codeIn s.tree.table x
  longest : ∀ x < s.params.alpha, s.codeLenAt x ≤ s.params.maxLen

/-! ### The invariant of the block -/

/-- Every memory is in its canonical form. -/
structure State.Canonical (s : State) : Prop where
  text : Memory.wf s.text
  stream : Memory.wf s.stream
  out : Memory.wf s.out
  freq : Memory.wf s.freq
  node : Memory.wf s.node
  codeLen : Memory.wf s.codeLen
  codeBit : Memory.wf s.codeBit

/-- Every element that holds a value has a legal index and fits its width (20_memory.md R61, 10_state.md R33, R36,
R37). -/
structure State.InRange (s : State) : Prop where
  text : ∀ e ∈ s.text, e.1 < s.params.maxText ∧ e.2 < 2 ^ s.params.symW
  stream : ∀ e ∈ s.stream, e.1 < s.params.maxStream
  out : ∀ e ∈ s.out, e.1 < s.params.maxText ∧ e.2 < 2 ^ s.params.symW
  freq : ∀ e ∈ s.freq, e.1 < s.params.alpha ∧ e.2 < 2 ^ s.params.wW
  node : ∀ e ∈ s.node, e.1 < s.params.maxNode ∧ e.2.weight < 2 ^ s.params.wW ∧ e.2.sym < 2 ^ s.params.symW ∧
    e.2.left < 2 ^ s.params.idxW ∧ e.2.right < 2 ^ s.params.idxW
  codeLen : ∀ e ∈ s.codeLen, e.1 < s.params.alpha ∧ e.2 ≤ s.params.maxLen
  codeBit : ∀ e ∈ s.codeBit, e.1 < s.params.alpha * s.params.alpha

/-- The lengths never exceed the capacities (10_state.md R24 to R26). -/
structure State.LengthsFit (s : State) : Prop where
  text : s.textLen.toNat ≤ s.params.maxText
  stream : s.streamLen.toNat ≤ s.params.maxStream
  out : s.outLen.toNat ≤ s.params.maxText

/-- The flags agree with each other and with ERR_INFO: no error recorded without STICKY, ERR_INFO 0 without an
error, and IDLE means STATUS = 0 (10_state.md R22, R31, R32, R43). -/
structure State.FlagsAgree (s : State) : Prop where
  table : s.status.tableValid = true → s.status.treeValid = true
  sticky : s.status.err ≠ none → s.status.sticky = true
  info : s.status.err = none → s.errInfo = 0
  idle : s.status.state = .idle → s.status = Status.cleared

/-- The invariant of the block over a parameter record that meets 00_scope.md R6: what the valid flags promise is
there (10_state.md R35, R38), and without them the registers of the tree are 0 (R28 to R30) and no element of the
tables holds a value. -/
structure State.Inv (s : State) : Prop where
  params : s.params.wellFormed = true
  canonical : s.Canonical
  inRange : s.InRange
  lengths : s.LengthsFit
  flags : s.FlagsAgree
  tree : s.status.treeValid = true → s.HoldsTree
  noTree : s.status.treeValid = false → s.root = 0 ∧ s.nodeCnt = 0 ∧ s.nleaf = 0 ∧ s.freq = [] ∧ s.node = []
  table : s.status.tableValid = true → s.HoldsTable
  noTable : s.status.tableValid = false → s.codeLen = [] ∧ s.codeBit = []

/-! ### What BUILD reads, and the order of its merges -/

/-- `S`: the distinct symbols of the text, in ascending order (40_build.md R113). -/
def State.present (s : State) : List Symbol :=
  (List.range s.params.alpha).filter fun x => decide (x ∈ s.textSymbols)

/-- The legacy rule applies to a BUILD of this state (40_build.md R119). -/
def State.legacyNow (s : State) : Prop :=
  s.cfg.legacyCd = true ∧ s.params.legacySymL ∈ s.textSymbols ∧ s.params.legacySymR ∈ s.textSymbols

/-- The members of Q just before the Internal slot `i` is made: the slots below `i` that no Internal slot below `i`
has as a child (40_build.md R117, R120). -/
def State.alive (s : State) (i : Nat) : List Nat :=
  (List.range i).filter fun j => (List.range i).all fun k =>
    decide ((s.nodeAt k).tag = .leaf) || (decide ((s.nodeAt k).left ≠ j) && decide ((s.nodeAt k).right ≠ j))

/-- `before(i, j)` of two slots of the NODE table (40_build.md R115). -/
def State.beforeSlot (s : State) (i j : Nat) : Prop :=
  before { slot := i, node := s.nodeAt i } { slot := j, node := s.nodeAt j } = true

/-- A priority collection as BUILD makes it: slots distinct, and "among Leaves a smaller slot index is a smaller
symbol" (40_build.md R113, R116). -/
structure SlotsInOrder (q : List Entry) : Prop where
  distinct : (q.map Entry.slot).Nodup
  leaves : ∀ e ∈ q, ∀ f ∈ q, e.node.tag = .leaf → f.node.tag = .leaf → e.slot < f.slot → e.node.sym < f.node.sym

/-! ### Runs -/

/-- The states of all runs: from reset, with any parameters that meet 00_scope.md R6, by steps, the outside world
presenting any events at any time. -/
inductive Reachable : State → Prop
  | reset (p : Params) (h : p.wellFormed = true) : Reachable { State.reset with params := p }
  | presents (s : State) (events : List PortEvent) (h : Reachable s) : Reachable { s with pending := events }
  | steps (s t : State) (h : Reachable s) (hs : step s = .next t) : Reachable t

/-- The next step is the core's completion of a command in flight (44_control.md R176). -/
def State.completes (s : State) : Prop :=
  s.status.state = .busy ∧ (s.pending = [] ∨ ∃ rest, s.pending = .completion :: rest)

/-- The next step is a reset (70_reset_and_hazards.md R220). -/
def State.resets (s : State) : Prop := ∃ rest, s.pending = .reset :: rest

/-- The next step answers the transaction `w`. -/
def State.answers (s : State) (w : TransactionWord) : Prop := ∃ rest, s.pending = .transaction w :: rest

/-- The next step issues a command: a WR of CMD while not BUSY (44_control.md R175). -/
def State.issues (s : State) (w : Word) : Prop :=
  s.status.state ≠ .busy ∧ ∃ v, s.answers v ∧ decodeTransaction v = .wr .reg 0 w

/-! ### Frames: `KeepsX s t` says that `t` holds in X what `s` holds, element by element -/

def KeepsText (s t : State) : Prop := t.textLen = s.textLen ∧ ∀ i, t.text.read i = s.text.read i
def KeepsStream (s t : State) : Prop := t.streamLen = s.streamLen ∧ ∀ i, t.stream.read i = s.stream.read i
def KeepsOut (s t : State) : Prop := t.outLen = s.outLen ∧ ∀ i, t.out.read i = s.out.read i

def KeepsTree (s t : State) : Prop :=
  t.root = s.root ∧ t.nodeCnt = s.nodeCnt ∧ t.nleaf = s.nleaf ∧
    (∀ x, t.freq.read x = s.freq.read x) ∧ ∀ i, t.node.read i = s.node.read i

def KeepsTable (s t : State) : Prop :=
  (∀ x, t.codeLen.read x = s.codeLen.read x) ∧ ∀ j, t.codeBit.read j = s.codeBit.read j

/-- STATUS and ERR_INFO. -/
def KeepsStatus (s t : State) : Prop := t.status = s.status ∧ t.errInfo = s.errInfo

def KeepsValidFlags (s t : State) : Prop :=
  t.status.treeValid = s.status.treeValid ∧ t.status.tableValid = s.status.tableValid

/-- CMD, CFG and the parameters. -/
def KeepsControl (s t : State) : Prop := t.cmd = s.cmd ∧ t.cfg = s.cfg ∧ t.params = s.params

/-- The port: the last answer and what is to come. -/
def KeepsPort (s t : State) : Prop := t.answer = s.answer ∧ t.pending = s.pending

/-- Everything but the answer of a transaction and the draw number: "nothing in the block has changed". -/
def KeepsBlock (s t : State) : Prop :=
  KeepsText s t ∧ KeepsStream s t ∧ KeepsOut s t ∧ KeepsTree s t ∧ KeepsTable s t ∧ KeepsStatus s t ∧
    KeepsControl s t ∧ t.pending = s.pending

/-- The registers and memories of 10_state.md R44: every register 0, no element of any memory has a value. -/
structure State.AtReset (s : State) : Prop where
  cmd : s.cmd = 0
  status : s.status.word = 0
  flags : s.status = Status.cleared
  cfg : s.cfg.word = 0
  lengths : s.textLen = 0 ∧ s.streamLen = 0 ∧ s.outLen = 0
  treeRegs : s.root = 0 ∧ s.nodeCnt = 0 ∧ s.nleaf = 0
  errInfo : s.errInfo = 0
  data : ∀ i, s.text.read i = none ∧ s.stream.read i = none ∧ s.out.read i = none
  tables : ∀ i, s.freq.read i = none ∧ s.node.read i = none ∧ s.codeLen.read i = none ∧ s.codeBit.read i = none

/-- STATUS and ERR_INFO after a command that succeeded: DONE, ERR 0, ERR_INFO 0, STICKY unchanged (10_state.md
R32). -/
def Succeeded (s t : State) : Prop :=
  t.status.state = .done ∧ t.status.err = none ∧ t.errInfo = 0 ∧ t.status.sticky = s.status.sticky

/-- STATUS and ERR_INFO after an error (60_exceptions.md R202). -/
def Failed (t : State) (e : CmdError) (info : Word) : Prop :=
  t.status.state = .done ∧ t.status.err = some e ∧ t.errInfo = info ∧ t.status.sticky = true

end Sys2Proof.Machine
end

