-- ==== Sys2Proof/Certificates/Slice0/Obligations.lean ====
section
/-! DEFINITION. Certificates/Slice0/Obligations.lean: the statements about the block, from the numbered rules of
spec/. Each docstring names the rules it rests on. -/

/-! Where a statement says that an element the spec calls unspecified has no value (its read is `none`), that is the
form this model gives to unspecified contents: the host and the commands read a free value there (log 3). -/

open Sys2Proof Sys2Proof.Machine

/-! ### Encoding -/

/-- 30_encoding.md R90 to R92, R102: no bit of an encoding is dropped. -/
def Obligations.DecodeInvertsEncode : Prop :=
  ∀ i : Instr, i.wellFormed = true → decode (encode i) = .ok i

/-- 30_encoding.md R91, R96, 20_memory.md R60: each word has one meaning, and encodes back but for the ignored write
data of a RD (the encoder's zeros there are the model's choice, log 10). -/
def Obligations.EncodeInvertsDecode : Prop :=
  ∀ (c : Code) (i : Instr), decode c = .ok i → i.wellFormed = true ∧
    match c with
    | .cmd w => encode i = .cmd w
    | .host w => encode i = .host (if TransactionWord.we w then w else w &&& 0xFFFFFFFFF00000000#68)

/-- 30_encoding.md R92 (and the rejection by name, R96). -/
def Obligations.CommandMapIsTheFiveWords : Prop :=
  (∀ w : Word, (∃ i, decodeCommand w = .ok i) ↔
    (w.extractLsb' 4 28 = 0 ∧ 1 ≤ (w.extractLsb' 0 4).toNat ∧ (w.extractLsb' 0 4).toNat ≤ 5)) ∧
  (∀ w : Word, (∀ i, decodeCommand w ≠ .ok i) → decodeCommand w = .error (.illegalCommand w)) ∧
  decodeCommand 0x00000001 = .ok .build ∧
  decodeCommand 0x00000002 = .ok .gentab ∧
  decodeCommand 0x00000003 = .ok .encode ∧
  decodeCommand 0x00000004 = .ok .decode ∧
  decodeCommand 0x00000005 = .ok .clear

/-- Words written out from 30_encoding.md R91, R92 and the programs of 95_test_vectors.md (P1, V6, B5). -/
def Obligations.WrittenOutWordsDecode : Prop :=
  decode (.cmd 0x00000001#32) = .ok .build ∧
  decode (.cmd 0x00000004#32) = .ok .decode ∧
  decode (.cmd 0x00000011#32) = .error (.illegalCommand 0x00000011#32) ∧
  decode (.host 0x90000000000000061#68) = .ok (.wr .text 0 0x61) ∧
  decode (.host 0x8000000030000000B#68) = .ok (.wr .reg 3 11) ∧
  decode (.host 0x00000000100000000#68) = .ok (.rd .reg 1) ∧
  decode (.host 0x50000004100000000#68) = .ok (.rd .node 65)

/-! ### One step -/

/-- 20_memory.md R70, 44_control.md R176, 70_reset_and_hazards.md R220, R222: a step is the decoded instruction's
`exec` on the state without the event taken. That an empty list of events means "complete, or do nothing" is the
model's choice (log 2). -/
def Obligations.StepRunsTheDecodedInstruction : Prop :=
  (∀ (s : State) (w : TransactionWord) (rest : List PortEvent), s.pending = .transaction w :: rest →
    step s = exec (decodeTransaction w) { s with pending := rest }) ∧
  (∀ (s : State) (i : Instr), s.status.state = .busy → decodeCommand s.cmd = .ok i →
    (s.pending = [] → step s = exec i s) ∧
    ∀ rest, s.pending = .completion :: rest → step s = exec i { s with pending := rest }) ∧
  (∀ (s : State) (w : Word), s.status.state = .busy → decodeCommand s.cmd = .error (.illegalCommand w) →
    (s.pending = [] → step s = .next (s.raise .illegalCommand w)) ∧
    ∀ rest, s.pending = .completion :: rest →
      step s = .next (({ s with pending := rest } : State).raise .illegalCommand w)) ∧
  (∀ s : State, s.status.state ≠ .busy →
    (s.pending = [] → step s = .next s) ∧
    ∀ rest, s.pending = .completion :: rest → step s = .next { s with pending := rest }) ∧
  (∀ (s : State) (rest : List PortEvent), s.pending = .reset :: rest →
    step s = .next ({ s with pending := rest } : State).resetNow)

/-- The host's placing of a word (log 2): a row's word that decodes runs in the very next step, in any state. -/
def Obligations.PlacedWordRunsNext : Prop :=
  ∀ (s : State) (nbits w : Nat) (i : Instr), decodeTableWord nbits w = some i →
    step (s.withFetchWord nbits w) =
      exec i (if nbits ≤ 32 then { s with cmd := BitVec.ofNat 32 w, status := s.status.issued } else s)

/-- 44_control.md R177, 60_exceptions.md R193: no instruction and no step of the block stops the machine. -/
def Obligations.EveryInstructionAndStepAnswers : Prop :=
  (∀ (i : Instr) (s : State), ∃ t, exec i s = .next t) ∧ ∀ s : State, ∃ t, step s = .next t

/-- 44_control.md R180, the whole table. -/
def Obligations.SequencingStateMachine : Prop :=
  ∀ s t : State, step s = .next t →
    (s.resets → t.status.state = .idle) ∧
    ((∃ w, s.issues w) → (s.status.state = .idle ∨ s.status.state = .done) ∧ t.status.state = .busy) ∧
    (s.completes → s.cmd = 0x00000005 → t.status.state = .idle) ∧
    (s.completes → s.cmd ≠ 0x00000005 → t.status.state = .done) ∧
    (¬ s.resets → (¬ ∃ w, s.issues w) → ¬ s.completes → t.status.state = s.status.state)

/-- 44_control.md R177: a command in flight is over after at most one step more than there are events presented
(the finite list of events is the model's form of the rule's fairness, log 2). -/
def Obligations.BusyEndsWithinPendingEvents : Prop :=
  ∀ s : State, s.status.state = .busy →
    ∃ k ≤ s.pending.length + 1, ∃ t : State, core.run k s = .next t ∧ t.status.state ≠ .busy

/-- 70_reset_and_hazards.md R228, 20_memory.md R63 step 1, R64 step 1. -/
def Obligations.BusyAdmitsOnlyStatusReads : Prop :=
  ∀ s : State, s.status.state = .busy →
    (s.status.word.extractLsb' 0 2 = 1 ∧ ∃ t, exec (.rd .reg 1) s = .next t ∧
      t.answer = some { fault := false, rdata := s.status.word } ∧ KeepsBlock s t) ∧
    (∀ space index, ¬ (space = .reg ∧ index = 1) → ∃ t r, exec (.rd space index) s = .next t ∧
      t.answer = some { fault := true, rdata := r } ∧ KeepsBlock s t) ∧
    (∀ space index wdata, ∃ t r, exec (.wr space index wdata) s = .next t ∧
      t.answer = some { fault := true, rdata := r } ∧ KeepsBlock s t)

/-- 44_control.md R179. -/
def Obligations.IllegalCommandIsReported : Prop :=
  ∀ s : State, s.completes →
    s.cmd ∉ [0x00000001#32, 0x00000002#32, 0x00000003#32, 0x00000004#32, 0x00000005#32] →
    ∃ t, step s = .next t ∧ Failed t .illegalCommand s.cmd ∧ KeepsText s t ∧ KeepsStream s t ∧ KeepsOut s t ∧
      KeepsTree s t ∧ KeepsTable s t ∧ KeepsValidFlags s t ∧ KeepsControl s t ∧ t.answer = s.answer

/-! ### Reset and invariants -/

/-- 10_state.md R44, for the state the model starts in and for a reset in any state. -/
def Obligations.ResetStateIsAllZero : Prop :=
  State.reset.AtReset ∧
  (∀ s : State, s.resets → ∃ t, step s = .next t ∧ t.AtReset ∧ t.params = s.params) ∧
  (∀ s : State, s.AtReset → s.pending = [] → step s = .next s)

/-- The invariant holds after reset, for every parameter record that meets 00_scope.md R6, the recommended one (R5)
among them. -/
def Obligations.InvAtReset : Prop :=
  Params.recommended.wellFormed = true ∧
  ∀ (p : Params) (events : List PortEvent), p.wellFormed = true →
    ({ State.reset with params := p, pending := events } : State).Inv

/-- 10_state.md R35, R38, R43: every step keeps the invariant of the block. -/
def Obligations.StepKeepsInv : Prop :=
  ∀ s t : State, s.Inv → step s = .next t → t.Inv

/-- Every step keeps every memory in its canonical form, in any state (the form is the model's, 10_state.md R47
being what it must represent). -/
def Obligations.StepKeepsMemoriesCanonical : Prop :=
  ∀ s t : State, s.Canonical → step s = .next t → t.Canonical

/-- The parameters are no state (00_scope.md R5, section 7 question 2): no step changes them (their place in State is
the model's choice, log 1). -/
def Obligations.ParamsNeverChange : Prop :=
  ∀ s t : State, step s = .next t → t.params = s.params

/-- 10_state.md R43. -/
def Obligations.TableValidImpliesTreeValid : Prop :=
  ∀ s : State, Reachable s → s.status.tableValid = true → s.status.treeValid = true

/-! ### RD -/

/-- 20_memory.md R63, 10_state.md R20 to R31: what a RD of each register answers. -/
def Obligations.RegisterReads : Prop :=
  ∀ s : State, s.status.state ≠ .busy →
    (∀ e ∈ [(0, s.cmd), (1, s.status.word), (2, if s.cfg.legacyCd then 1 else 0), (3, s.textLen), (4, s.streamLen),
        (5, s.outLen), (6, BitVec.ofNat 32 (s.root.toNat % 2 ^ (s.params.symW + 1))), (7, s.nodeCnt), (8, s.nleaf),
        (9, s.errInfo)],
      ∃ t, exec (.rd .reg e.1) s = .next t ∧ t.answer = some { fault := false, rdata := e.2 } ∧ KeepsBlock s t) ∧
    (∀ n, 10 ≤ n → ∃ t r, exec (.rd .reg n) s = .next t ∧ t.answer = some { fault := true, rdata := r } ∧
      KeepsBlock s t)

/-- 20_memory.md R62, R63, 10_state.md R33, R36, R37, R39 to R41: what a RD of an element that holds a value answers,
space by space. -/
def Obligations.ElementReads : Prop :=
  ∀ s : State, s.status.state ≠ .busy →
    (∀ i < s.params.maxText, ∀ v, s.text.read i = some v → ∃ t, exec (.rd .text i) s = .next t ∧
      t.answer = some { fault := false, rdata := BitVec.ofNat 32 (v % 2 ^ s.params.symW) } ∧ KeepsBlock s t) ∧
    (∀ i < s.params.maxStream, ∀ b, s.stream.read i = some b → ∃ t, exec (.rd .stream i) s = .next t ∧
      t.answer = some { fault := false, rdata := if b then 1 else 0 } ∧ KeepsBlock s t) ∧
    (∀ i < s.params.maxText, ∀ v, s.out.read i = some v → ∃ t, exec (.rd .out i) s = .next t ∧
      t.answer = some { fault := false, rdata := BitVec.ofNat 32 (v % 2 ^ s.params.symW) } ∧ KeepsBlock s t) ∧
    (s.status.treeValid = true →
      (∀ x < s.params.alpha, ∀ v, s.freq.read x = some v → ∃ t, exec (.rd .freq x) s = .next t ∧
        t.answer = some { fault := false, rdata := BitVec.ofNat 32 (v % 2 ^ s.params.wW) } ∧ KeepsBlock s t) ∧
      (∀ i < s.params.maxNode, i < s.nodeCnt.toNat → ∀ n, s.node.read i = some n →
        ∀ e ∈ [(0, if n.tag = .internal then 1 else 0), (1, BitVec.ofNat 32 (n.weight % 2 ^ s.params.wW)),
            (2, BitVec.ofNat 32 (n.sym % 2 ^ s.params.symW)), (3, BitVec.ofNat 32 (n.left % 2 ^ s.params.idxW)),
            (4, BitVec.ofNat 32 (n.right % 2 ^ s.params.idxW))],
          ∃ t, exec (.rd .node (8 * i + e.1)) s = .next t ∧
            t.answer = some { fault := false, rdata := e.2 } ∧ KeepsBlock s t)) ∧
    (s.status.tableValid = true →
      (∀ x < s.params.alpha, ∀ v, s.codeLen.read x = some v → ∃ t, exec (.rd .codeLen x) s = .next t ∧
        t.answer = some { fault := false, rdata := BitVec.ofNat 32 v } ∧ KeepsBlock s t) ∧
      (∀ x < s.params.alpha, ∀ i < s.params.alpha, ∀ v b, s.codeLen.read x = some v → i < v →
        s.codeBit.read (x * s.params.alpha + i) = some b →
        ∃ t, exec (.rd .codeBit (x * s.params.alpha + i)) s = .next t ∧
          t.answer = some { fault := false, rdata := if b then 1 else 0 } ∧ KeepsBlock s t))

/-- The legal indices of 20_memory.md R61, with the NODE index of 10_state.md R33 and the constants of 00_scope.md
R7. -/
def Obligations.LegalIndexTable : Prop :=
  ∀ (p : Params) (index : Nat),
    (legalIndex p .reg index = true ↔ index ≤ 9) ∧
    (legalIndex p .text index = true ↔ index < p.maxText) ∧
    (legalIndex p .stream index = true ↔ index < p.maxStream) ∧
    (legalIndex p .out index = true ↔ index < p.maxText) ∧
    (legalIndex p .freq index = true ↔ index < 2 ^ p.symW) ∧
    (legalIndex p .node index = true ↔ ∃ i f, index = 8 * i + f ∧ i < 2 * 2 ^ p.symW - 1 ∧ f ≤ 4) ∧
    (legalIndex p .codeLen index = true ↔ index < 2 ^ p.symW) ∧
    (legalIndex p .codeBit index = true ↔ index < 2 ^ p.symW * 2 ^ p.symW)

/-- 20_memory.md R63, 60_exceptions.md R195: a RD faults exactly when BUSY forbids it or the index is illegal; a RD
of any legal element, an unspecified one among them, is answered; and no RD changes anything. -/
def Obligations.ReadFaultsExactly : Prop :=
  ∀ (s : State) (space : Space) (index : Nat), ∃ t a, exec (.rd space index) s = .next t ∧ t.answer = some a ∧
    (a.fault = true ↔ (s.status.state = .busy ∧ ¬ (space = .reg ∧ index = 1)) ∨
      legalIndex s.params space index = false) ∧
    KeepsBlock s t

/-! ### WR -/

/-- 20_memory.md R64, 60_exceptions.md R195: a WR faults exactly for the four causes, and a faulted WR changes
nothing. -/
def Obligations.WriteFaultsExactly : Prop :=
  ∀ (s : State) (space : Space) (index : Nat) (wdata : Word),
    ∃ t a, exec (.wr space index wdata) s = .next t ∧ t.answer = some a ∧
      (a.fault = true ↔ s.status.state = .busy ∨ legalIndex s.params space index = false ∨
        ¬ (space = .text ∨ space = .stream ∨ (space = .reg ∧ index ∈ [0, 2, 3, 4])) ∨
        (space = .reg ∧ index = 3 ∧ wdata.toNat > s.params.maxText) ∨
        (space = .reg ∧ index = 4 ∧ wdata.toNat > s.params.maxStream)) ∧
      (a.fault = true → KeepsBlock s t)

/-- 20_memory.md R64, R67, R70: a WR of a TEXT element stores its `SYM_W` low bits, changes nothing else, and the
next RD returns them. -/
def Obligations.WriteTextThenRead : Prop :=
  ∀ (s : State) (i : Nat) (w : Word), s.status.state ≠ .busy → i < s.params.maxText →
    ∃ t r, exec (.wr .text i w) s = .next t ∧ t.answer = some { fault := false, rdata := r } ∧
      t.text.read i = some (w.toNat % 2 ^ s.params.symW) ∧ (∀ j, j ≠ i → t.text.read j = s.text.read j) ∧
      t.textLen = s.textLen ∧ KeepsStream s t ∧ KeepsOut s t ∧ KeepsTree s t ∧ KeepsTable s t ∧ KeepsStatus s t ∧
      KeepsControl s t ∧ t.pending = s.pending ∧
      ∃ u, exec (.rd .text i) t = .next u ∧
        u.answer = some { fault := false, rdata := BitVec.ofNat 32 (w.toNat % 2 ^ s.params.symW) }

/-- 20_memory.md R62, R64, R67, R70: a WR of a STREAM element stores bit 0, changes nothing else, and the next RD
returns it. -/
def Obligations.WriteStreamThenRead : Prop :=
  ∀ (s : State) (i : Nat) (w : Word), s.status.state ≠ .busy → i < s.params.maxStream →
    ∃ t r, exec (.wr .stream i w) s = .next t ∧ t.answer = some { fault := false, rdata := r } ∧
      t.stream.read i = some (w.getLsbD 0) ∧ (∀ j, j ≠ i → t.stream.read j = s.stream.read j) ∧
      t.streamLen = s.streamLen ∧ KeepsText s t ∧ KeepsOut s t ∧ KeepsTree s t ∧ KeepsTable s t ∧ KeepsStatus s t ∧
      KeepsControl s t ∧ t.pending = s.pending ∧
      ∃ u, exec (.rd .stream i) t = .next u ∧ u.answer = some { fault := false, rdata := w &&& 1 }

/-- 20_memory.md R64, 10_state.md R23 to R25: WR of CFG keeps bit 0, WR of a length stores a value within the
capacity; nothing else changes. -/
def Obligations.WriteConfigurationAndLengths : Prop :=
  ∀ (s : State) (w : Word), s.status.state ≠ .busy →
    (∃ t r, exec (.wr .reg 2 w) s = .next t ∧ t.answer = some { fault := false, rdata := r } ∧
      t.cfg.word = w &&& 1 ∧ t.cmd = s.cmd ∧ t.params = s.params ∧ KeepsText s t ∧ KeepsStream s t ∧ KeepsOut s t ∧
      KeepsTree s t ∧ KeepsTable s t ∧ KeepsStatus s t ∧ t.pending = s.pending) ∧
    (w.toNat ≤ s.params.maxText → ∃ t r, exec (.wr .reg 3 w) s = .next t ∧
      t.answer = some { fault := false, rdata := r } ∧ t.textLen = w ∧ (∀ i, t.text.read i = s.text.read i) ∧
      KeepsStream s t ∧ KeepsOut s t ∧ KeepsTree s t ∧ KeepsTable s t ∧ KeepsStatus s t ∧ KeepsControl s t ∧
      t.pending = s.pending) ∧
    (w.toNat ≤ s.params.maxStream → ∃ t r, exec (.wr .reg 4 w) s = .next t ∧
      t.answer = some { fault := false, rdata := r } ∧ t.streamLen = w ∧ (∀ k, t.stream.read k = s.stream.read k) ∧
      KeepsText s t ∧ KeepsOut s t ∧ KeepsTree s t ∧ KeepsTable s t ∧ KeepsStatus s t ∧ KeepsControl s t ∧
      t.pending = s.pending)

/-- 44_control.md R175. -/
def Obligations.IssueStoresAndStarts : Prop :=
  ∀ (s : State) (w : Word),
    (s.status.state ≠ .busy → ∃ t r, exec (.wr .reg 0 w) s = .next t ∧
      t.answer = some { fault := false, rdata := r } ∧ t.cmd = w ∧ t.status = { s.status with state := .busy } ∧
      t.errInfo = s.errInfo ∧ t.cfg = s.cfg ∧ t.params = s.params ∧ KeepsText s t ∧ KeepsStream s t ∧
      KeepsOut s t ∧ KeepsTree s t ∧ KeepsTable s t ∧ t.pending = s.pending) ∧
    (s.status.state = .busy → ∃ t r, exec (.wr .reg 0 w) s = .next t ∧
      t.answer = some { fault := true, rdata := r } ∧ KeepsBlock s t)

/-! ### STATUS and errors -/

/-- 10_state.md R22, 60_exceptions.md R190: the fields of the STATUS word and the error codes. -/
def Obligations.StatusWordLayout : Prop :=
  (∀ st : Status,
    st.word.extractLsb' 0 2 = st.state.code ∧
    st.word.getLsbD 2 = st.treeValid ∧ st.word.getLsbD 3 = st.tableValid ∧ st.word.getLsbD 4 = st.sticky ∧
    st.word.extractLsb' 5 3 = 0 ∧ st.word.extractLsb' 8 8 = errField st.err ∧ st.word.extractLsb' 16 16 = 0) ∧
  (Phase.idle.code = 0 ∧ Phase.busy.code = 1 ∧ Phase.done.code = 2) ∧
  errField none = 0 ∧
  [CmdError.emptyInput, .symbolNotInTable, .malformedStream, .illegalCommand, .noTree, .noTable, .streamOverflow,
    .outputOverflow].map CmdError.code = [1, 2, 3, 4, 5, 6, 7, 8]

/-- 60_exceptions.md R202: `raise E(info)`. -/
def Obligations.ErrorEntryEffects : Prop :=
  ∀ (s : State) (e : CmdError) (info : Word),
    Failed (s.raise e info) e info ∧ KeepsControl s (s.raise e info) ∧ KeepsPort s (s.raise e info) ∧
    KeepsText s (s.raise e info) ∧
    (e = .emptyInput →
      (s.raise e info).status.treeValid = false ∧ (s.raise e info).status.tableValid = false ∧
      (s.raise e info).root = 0 ∧ (s.raise e info).nodeCnt = 0 ∧ (s.raise e info).nleaf = 0 ∧
      (∀ i, (s.raise e info).freq.read i = none ∧ (s.raise e info).node.read i = none ∧
        (s.raise e info).codeLen.read i = none ∧ (s.raise e info).codeBit.read i = none)) ∧
    (e ≠ .emptyInput →
      KeepsValidFlags s (s.raise e info) ∧ KeepsTree s (s.raise e info) ∧ KeepsTable s (s.raise e info)) ∧
    (e = .symbolNotInTable ∨ e = .streamOverflow →
      (s.raise e info).streamLen = 0 ∧ ∀ k, (s.raise e info).stream.read k = none) ∧
    (e ≠ .symbolNotInTable → e ≠ .streamOverflow → KeepsStream s (s.raise e info)) ∧
    (e = .malformedStream ∨ e = .outputOverflow →
      (s.raise e info).outLen = 0 ∧ ∀ k, (s.raise e info).out.read k = none) ∧
    (e ≠ .malformedStream → e ≠ .outputOverflow → KeepsOut s (s.raise e info))

/-! ### BUILD -/

/-- 40_build.md R112. -/
def Obligations.BuildOfEmptyTextRaisesEmptyInput : Prop :=
  ∀ s : State, s.textLen = 0 → ∃ t, exec .build s = .next t ∧ Failed t .emptyInput 0 ∧
    t.status.treeValid = false ∧ t.status.tableValid = false ∧ t.root = 0 ∧ t.nodeCnt = 0 ∧ t.nleaf = 0 ∧
    (∀ i, t.freq.read i = none ∧ t.node.read i = none ∧ t.codeLen.read i = none ∧ t.codeBit.read i = none) ∧
    KeepsText s t ∧ KeepsStream s t ∧ KeepsOut s t ∧ KeepsControl s t ∧ KeepsPort s t

/-- 40_build.md R111, 10_state.md R36: FREQ after BUILD, all its elements, and their sum. -/
def Obligations.BuildCountsTheText : Prop :=
  ∀ s : State, s.textLen ≠ 0 → ∃ t, exec .build s = .next t ∧
    (∀ x, t.freq.read x = if x < s.params.alpha then
      some ((List.range s.textLen.toNat).filter fun k => decide (s.textAt k = x)).length else none) ∧
    ((List.range s.params.alpha).map fun x => (t.freq.read x).getD 0).sum = s.textLen.toNat

/-- 40_build.md R110, R121, R122, R125: a BUILD of a non-empty text succeeds; its registers, its flags, which NODE
slots have a value, the weight of the root, and its frame. -/
def Obligations.BuildCompletes : Prop :=
  ∀ s : State, s.params.wellFormed = true → s.textLen ≠ 0 → ∃ t, exec .build s = .next t ∧ Succeeded s t ∧
    t.status.treeValid = true ∧ t.status.tableValid = false ∧
    t.nleaf.toNat = s.present.length ∧ t.nodeCnt.toNat = 2 * s.present.length - 1 ∧
    t.root.toNat = (if s.present.length = 1 then 0 else 2 * s.present.length - 2) ∧
    (∀ i, (t.node.read i).isSome = true ↔ i < 2 * s.present.length - 1) ∧
    (t.nodeAt t.rootSlot).weight = s.textLen.toNat ∧
    (∀ j, t.codeLen.read j = none ∧ t.codeBit.read j = none) ∧
    KeepsText s t ∧ KeepsStream s t ∧ KeepsOut s t ∧ KeepsControl s t ∧ KeepsPort s t

/-- 40_build.md R113: the k-th present symbol's Leaf is in slot k. -/
def Obligations.BuildSeedsLeavesInOrder : Prop :=
  ∀ s : State, s.textLen ≠ 0 → ∃ t, exec .build s = .next t ∧
    ∀ k x, s.present[k]? = some x → t.node.read k =
      some { tag := .leaf, weight := s.textSymbols.count x, sym := x, left := 0, right := 0 }

/-- 40_build.md R116, on any collection BUILD makes: `before` is irreflexive, transitive and total, is the
lexicographic order of (weight, tag, slot), and `min(Q)` exists and is unique. -/
def Obligations.BeforeIsAStrictTotalOrder : Prop :=
  ∀ q : List Entry, SlotsInOrder q →
    (∀ i ∈ q, before i i = false) ∧
    (∀ i ∈ q, ∀ j ∈ q, ∀ k ∈ q, before i j = true → before j k = true → before i k = true) ∧
    (∀ i ∈ q, ∀ j ∈ q, i ≠ j → (before i j = true ∧ before j i = false) ∨ (before j i = true ∧ before i j = false)) ∧
    (∀ i ∈ q, ∀ j ∈ q, before i j = true ↔
      i.node.weight < j.node.weight ∨ (i.node.weight = j.node.weight ∧
        ((i.node.tag = .leaf ∧ j.node.tag = .internal) ∨ (i.node.tag = j.node.tag ∧ i.slot < j.slot)))) ∧
    (q ≠ [] → ∃ m rest, extractMin q = some (m, rest) ∧ m ∈ q ∧ rest = q.erase m ∧
      (∀ e ∈ q, e ≠ m → before m e = true) ∧
      ∀ m' ∈ q, (∀ e ∈ q, e ≠ m' → before m' e = true) → m' = m)

/-- 40_build.md R117, R118, R120: one pass of MergeLoop takes the two least, the first as the left child, and puts
the new node, in the next slot, into Q. -/
def Obligations.PassMergesTheTwoLeast : Prop :=
  ∀ b : Builder, SlotsInOrder b.queue → 2 ≤ b.queue.length →
    ∃ b' n1 n2, b.pass = some b' ∧ n1 ∈ b.queue ∧ n2 ∈ b.queue ∧ n1 ≠ n2 ∧
      (∀ e ∈ b.queue, e ≠ n1 → before n1 e = true) ∧
      (∀ e ∈ b.queue, e ≠ n1 → e ≠ n2 → before n2 e = true) ∧
      ∃ n : Node, n.tag = .internal ∧ n.weight = n1.node.weight + n2.node.weight ∧ n.sym = 0 ∧
        n.left = n1.slot ∧ n.right = n2.slot ∧
        b'.nodes = b.nodes ++ [n] ∧
        b'.queue.Perm ({ slot := b.nodes.length, node := n } :: (b.queue.erase n1).erase n2)

/-- 40_build.md R115, R117, R118, R120, seen in the NODE table of a finished BUILD: at every Internal slot (but the
one the legacy rule makes) the left child is the first of the slots then in Q and the right child the first of the
rest. -/
def Obligations.EveryInternalSlotMergesTheTwoLeast : Prop :=
  ∀ s : State, s.params.wellFormed = true → s.textLen ≠ 0 → ∃ t, exec .build s = .next t ∧
    ∀ i, s.present.length ≤ i → i < 2 * s.present.length - 1 → (i = s.present.length → ¬ s.legacyNow) →
      (t.nodeAt i).left ∈ t.alive i ∧ (t.nodeAt i).right ∈ t.alive i ∧
      (t.nodeAt i).left ≠ (t.nodeAt i).right ∧
      (∀ j ∈ t.alive i, j ≠ (t.nodeAt i).left → t.beforeSlot (t.nodeAt i).left j) ∧
      (∀ j ∈ t.alive i, j ≠ (t.nodeAt i).left → j ≠ (t.nodeAt i).right → t.beforeSlot (t.nodeAt i).right j)

/-- 40_build.md R119: with the flag 1 and both designated symbols present, the first Internal node joins their two
Leaves, LEGACY_SYM_L on the left, whatever their weights. -/
def Obligations.LegacyRuleMergesFirst : Prop :=
  ∀ s : State, s.params.wellFormed = true → s.textLen ≠ 0 → s.legacyNow → ∃ t, exec .build s = .next t ∧
    ∃ c < s.present.length, ∃ d < s.present.length,
      (t.nodeAt c).sym = s.params.legacySymL ∧ (t.nodeAt d).sym = s.params.legacySymR ∧
      ∃ n, t.node.read s.present.length = some n ∧ n.tag = .internal ∧ n.sym = 0 ∧ n.left = c ∧ n.right = d ∧
        n.weight = s.textSymbols.count s.params.legacySymL + s.textSymbols.count s.params.legacySymR

/-- 40_build.md R119, 10_state.md R23: without both designated symbols the flag makes no difference. -/
def Obligations.LegacyFlagNeedsBothSymbols : Prop :=
  ∀ (s : State) (flag : Bool), s.textLen ≠ 0 →
    ¬ (s.params.legacySymL ∈ s.textSymbols ∧ s.params.legacySymR ∈ s.textSymbols) →
    ∃ t u, exec .build s = .next t ∧ exec .build { s with cfg := { legacyCd := flag } } = .next u ∧ KeepsTree t u

/-- 40_build.md R127, 00_scope.md R14: the tree depends on the text only through its counts (and on the parameters
and CFG). -/
def Obligations.BuildDependsOnlyOnCounts : Prop :=
  ∀ s s' : State, s.params = s'.params → s.cfg = s'.cfg → s.textLen ≠ 0 → s'.textLen ≠ 0 →
    (∀ x < s.params.alpha, s.textSymbols.count x = s'.textSymbols.count x) →
    ∃ t t', exec .build s = .next t ∧ exec .build s' = .next t' ∧ KeepsTree t t'

/-- 10_state.md R35, 40_build.md R123: BUILD establishes the invariant of the tree, and the root's weight is the
TEXT_LEN it read. -/
def Obligations.BuildEstablishesTheTreeInvariant : Prop :=
  ∀ s : State, s.params.wellFormed = true → s.textLen ≠ 0 → s.textLen.toNat ≤ s.params.maxText →
    ∃ t, exec .build s = .next t ∧ t.HoldsTree ∧ (t.nodeAt t.rootSlot).weight = s.textLen.toNat

/-- 40_build.md R123, 90_conflicts.md C4: when the legacy rule was not applied, no other prefix code is shorter on the
text than the one GENTAB derives from BUILD's tree. -/
def Obligations.BuildTreeIsOptimal : Prop :=
  ∀ s : State, s.params.wellFormed = true → s.textLen ≠ 0 → ¬ s.legacyNow →
    ∃ t u, exec .build s = .next t ∧ exec .gentab t = .next u ∧
      ∀ other : Symbol → List Bit, (∀ x ∈ s.textSymbols, other x ≠ []) → PrefixFree other s.textSymbols →
        (concatCodes u.codeOf s.textSymbols).length ≤ (concatCodes other s.textSymbols).length

/-! ### GENTAB -/

/-- 41_gentab.md R145. -/
def Obligations.GentabWithoutTreeRaisesNoTree : Prop :=
  ∀ s : State, s.status.treeValid = false → ∃ t, exec .gentab s = .next t ∧ Failed t .noTree 0 ∧
    KeepsValidFlags s t ∧ KeepsText s t ∧ KeepsStream s t ∧ KeepsOut s t ∧ KeepsTree s t ∧ KeepsTable s t ∧
    KeepsControl s t ∧ KeepsPort s t

/-- 41_gentab.md R140, R141, R143: GENTAB writes the table of the abstract tree in NODE, and nothing else. -/
def Obligations.GentabWritesTheTreesTable : Prop :=
  ∀ s : State, s.params.wellFormed = true → s.status.treeValid = true → s.HoldsTree →
    ∃ t, exec .gentab s = .next t ∧ Succeeded s t ∧ t.status.treeValid = true ∧ t.status.tableValid = true ∧
      (∀ x < s.params.alpha, t.codeLen.read x = some (codeIn s.tree.table x).length ∧
        ∀ i < s.params.alpha, t.codeBit.read (x * s.params.alpha + i) = (codeIn s.tree.table x)[i]?) ∧
      KeepsTree s t ∧ KeepsText s t ∧ KeepsStream s t ∧ KeepsOut s t ∧ KeepsControl s t ∧ KeepsPort s t

/-- 41_gentab.md R142: the table of a tree that is one Leaf. -/
def Obligations.DegenerateTableIsOneZeroBit : Prop :=
  ∀ s : State, s.status.treeValid = true → (s.nodeAt s.rootSlot).tag = .leaf →
    (s.nodeAt s.rootSlot).sym < s.params.alpha →
    ∃ t, exec .gentab s = .next t ∧ Succeeded s t ∧
      t.codeLen.read (s.nodeAt s.rootSlot).sym = some 1 ∧
      t.codeBit.read ((s.nodeAt s.rootSlot).sym * s.params.alpha) = some false ∧
      ∀ y < s.params.alpha, y ≠ (s.nodeAt s.rootSlot).sym → t.codeLen.read y = some 0

/-- 41_gentab.md R144, first four points: keys, no empty code, the bound MAXLEN, prefix-freeness. -/
def Obligations.TableOfATreeIsAPrefixCode : Prop :=
  ∀ s : State, s.params.wellFormed = true → s.HoldsTree →
    (∀ x < s.params.alpha, codeIn s.tree.table x ≠ [] ↔ 0 < s.freqAt x) ∧
    (∀ x < s.params.alpha, (codeIn s.tree.table x).length ≤ s.params.maxLen) ∧
    (2 ≤ s.nleaf.toNat →
      PrefixFree (codeIn s.tree.table) ((List.range s.params.alpha).filter fun x => decide (0 < s.freqAt x)))

/-! ### ENCODE -/

/-- 42_encode.md R154. -/
def Obligations.EncodeWithoutTableRaisesNoTable : Prop :=
  ∀ s : State, s.status.tableValid = false → ∃ t, exec .encode s = .next t ∧ Failed t .noTable 0 ∧
    KeepsValidFlags s t ∧ KeepsText s t ∧ KeepsStream s t ∧ KeepsOut s t ∧ KeepsTree s t ∧ KeepsTable s t ∧
    KeepsControl s t ∧ KeepsPort s t

/-- 42_encode.md R150, R151, R155, R156: ENCODE of a text whose symbols all have codes and whose encoding fits, the
empty text among them. -/
def Obligations.EncodeConcatenatesTheCodes : Prop :=
  ∀ s : State, s.params.wellFormed = true → s.status.tableValid = true →
    (∀ x ∈ s.textSymbols, s.codeOf x ≠ []) →
    (concatCodes s.codeOf s.textSymbols).length ≤ s.params.maxStream →
    ∃ t, exec .encode s = .next t ∧ Succeeded s t ∧
      t.streamLen.toNat = (concatCodes s.codeOf s.textSymbols).length ∧
      t.streamLen.toNat = (s.textSymbols.map s.codeLenAt).sum ∧
      (∀ k < t.streamLen.toNat, t.stream.read k = (concatCodes s.codeOf s.textSymbols)[k]?) ∧
      (∀ k, t.streamLen.toNat ≤ k → t.stream.read k = s.stream.read k) ∧
      KeepsValidFlags s t ∧ KeepsText s t ∧ KeepsOut s t ∧ KeepsTree s t ∧ KeepsTable s t ∧ KeepsControl s t ∧
      KeepsPort s t

/-- 42_encode.md R152, R156, 60_exceptions.md R199: the first symbol without a code, all before it fitting. -/
def Obligations.EncodeReportsAbsentSymbol : Prop :=
  ∀ (s : State) (pre post : List Symbol) (x : Symbol), s.status.tableValid = true →
    s.textSymbols = pre ++ x :: post → (∀ y ∈ pre, s.codeOf y ≠ []) →
    (concatCodes s.codeOf pre).length ≤ s.params.maxStream → s.codeOf x = [] →
    ∃ t, exec .encode s = .next t ∧ Failed t .symbolNotInTable (BitVec.ofNat 32 pre.length) ∧
      t.streamLen = 0 ∧ (∀ k, t.stream.read k = none) ∧
      KeepsValidFlags s t ∧ KeepsText s t ∧ KeepsOut s t ∧ KeepsTree s t ∧ KeepsTable s t ∧ KeepsControl s t ∧
      KeepsPort s t

/-- 42_encode.md R153, R156, 60_exceptions.md R199: the first symbol whose code does not fit. -/
def Obligations.EncodeReportsStreamOverflow : Prop :=
  ∀ (s : State) (pre post : List Symbol) (x : Symbol), s.status.tableValid = true →
    s.textSymbols = pre ++ x :: post → (∀ y ∈ pre, s.codeOf y ≠ []) →
    (concatCodes s.codeOf pre).length ≤ s.params.maxStream → s.codeOf x ≠ [] →
    s.params.maxStream < (concatCodes s.codeOf (pre ++ [x])).length →
    ∃ t, exec .encode s = .next t ∧ Failed t .streamOverflow (BitVec.ofNat 32 pre.length) ∧
      t.streamLen = 0 ∧ (∀ k, t.stream.read k = none) ∧
      KeepsValidFlags s t ∧ KeepsText s t ∧ KeepsOut s t ∧ KeepsTree s t ∧ KeepsTable s t ∧ KeepsControl s t ∧
      KeepsPort s t

/-- 42_encode.md R155, 41_gentab.md R144 last point: the encoded length of the text BUILD read is the sum over the
symbols of FREQ times CODELEN. -/
def Obligations.EncodedLengthIsTheWeightedSum : Prop :=
  ∀ s : State, s.params.wellFormed = true → s.textLen ≠ 0 → s.textLen.toNat ≤ s.params.maxText →
    ∃ t u, exec .build s = .next t ∧ exec .gentab t = .next u ∧
      (∀ x ∈ s.textSymbols, u.codeOf x ≠ []) ∧
      (concatCodes u.codeOf s.textSymbols).length =
        ((List.range s.params.alpha).map fun x => u.freqAt x * u.codeLenAt x).sum

/-! ### DECODE -/

/-- 43_decode.md R167. -/
def Obligations.DecodeWithoutTreeRaisesNoTree : Prop :=
  ∀ s : State, s.status.treeValid = false → ∃ t, exec .decode s = .next t ∧ Failed t .noTree 0 ∧
    KeepsValidFlags s t ∧ KeepsText s t ∧ KeepsStream s t ∧ KeepsOut s t ∧ KeepsTree s t ∧ KeepsTable s t ∧
    KeepsControl s t ∧ KeepsPort s t

/-- 43_decode.md R161, with the overflow of R166 and the state R169 leaves after it: a tree that is one Leaf yields its
symbol once per stream bit, whatever the bits, up to MAX_TEXT; MalformedStream is never raised on it. That OUT, which R169
calls unspecified after the overflow, is elements without a value is the model's form (log 3). -/
def Obligations.DegenerateDecodeRepeatsTheSymbol : Prop :=
  ∀ s : State, s.status.treeValid = true → (s.nodeAt s.rootSlot).tag = .leaf →
    (s.streamLen.toNat ≤ s.params.maxText → ∃ t, exec .decode s = .next t ∧ Succeeded s t ∧
      t.outLen = s.streamLen ∧ (∀ k < s.streamLen.toNat, t.out.read k = some (s.nodeAt s.rootSlot).sym) ∧
      (∀ k, s.streamLen.toNat ≤ k → t.out.read k = s.out.read k) ∧
      KeepsValidFlags s t ∧ KeepsText s t ∧ KeepsStream s t ∧ KeepsTree s t ∧ KeepsTable s t ∧ KeepsControl s t ∧
      KeepsPort s t) ∧
    (s.params.maxText < s.streamLen.toNat → ∃ t, exec .decode s = .next t ∧
      Failed t .outputOverflow (BitVec.ofNat 32 s.params.maxText) ∧ t.outLen = 0 ∧ ∀ k, t.out.read k = none) ∧
    (∀ t, exec .decode s = .next t → t.status.err ≠ some .malformedStream)

/-- 43_decode.md R160, R162, R163, R169: on a tree with branches, a stream that ends on a code boundary and fits
decodes to the symbols of the walk. -/
def Obligations.DecodeWalksTheTree : Prop :=
  ∀ (s : State) (xs : List Symbol), s.params.wellFormed = true → s.status.treeValid = true → s.HoldsTree →
    2 ≤ s.nleaf.toNat → s.tree.decodeBits s.streamBits = (xs, []) → xs.length ≤ s.params.maxText →
    ∃ t, exec .decode s = .next t ∧ Succeeded s t ∧ t.outLen.toNat = xs.length ∧
      (∀ k < xs.length, t.out.read k = xs[k]?) ∧ (∀ k, xs.length ≤ k → t.out.read k = s.out.read k) ∧
      KeepsValidFlags s t ∧ KeepsText s t ∧ KeepsStream s t ∧ KeepsTree s t ∧ KeepsTable s t ∧ KeepsControl s t ∧
      KeepsPort s t

/-- 43_decode.md R164, R169: a stream that ends inside a code is malformed; ERR_INFO is the index of the first bit of
the incomplete code, and no partial result is delivered. -/
def Obligations.DecodeReportsMalformedStream : Prop :=
  ∀ (s : State) (xs : List Symbol) (rest : List Bit), s.params.wellFormed = true → s.status.treeValid = true →
    s.HoldsTree → 2 ≤ s.nleaf.toNat → s.tree.decodeBits s.streamBits = (xs, rest) → rest ≠ [] →
    xs.length ≤ s.params.maxText →
    ∃ t, exec .decode s = .next t ∧
      Failed t .malformedStream (BitVec.ofNat 32 (s.streamLen.toNat - rest.length)) ∧
      t.outLen = 0 ∧ (∀ k, t.out.read k = none) ∧
      KeepsValidFlags s t ∧ KeepsText s t ∧ KeepsStream s t ∧ KeepsTree s t ∧ KeepsTable s t ∧ KeepsControl s t ∧
      KeepsPort s t

/-- 43_decode.md R166, R169, 60_exceptions.md R199: the bit whose consumption produces the symbol that does not fit,
whatever follows it. -/
def Obligations.DecodeReportsOutputOverflow : Prop :=
  ∀ (s : State) (pre post : List Bit) (b : Bit), s.params.wellFormed = true → s.status.treeValid = true →
    s.HoldsTree → 2 ≤ s.nleaf.toNat → s.streamBits = pre ++ b :: post →
    (s.tree.decodeBits pre).1.length = s.params.maxText →
    (s.tree.decodeBits (pre ++ [b])).1.length = s.params.maxText + 1 →
    ∃ t, exec .decode s = .next t ∧ Failed t .outputOverflow (BitVec.ofNat 32 pre.length) ∧
      t.outLen = 0 ∧ (∀ k, t.out.read k = none) ∧
      KeepsValidFlags s t ∧ KeepsText s t ∧ KeepsStream s t ∧ KeepsTree s t ∧ KeepsTable s t ∧ KeepsControl s t ∧
      KeepsPort s t

/-- 30_encoding.md R98, 43_decode.md R162, R163: on a tree with branches and distinct symbols, walking a
concatenation of codes gives the symbols back. -/
def Obligations.CodesDecodeBack : Prop :=
  ∀ (w : Nat) (l r : Tree) (xs : List Symbol), (Tree.internal w l r).symbols.Nodup →
    (∀ x ∈ xs, x ∈ (Tree.internal w l r).symbols) →
    (Tree.internal w l r).decodeBits (concatCodes (codeIn (Tree.internal w l r).table) xs) = (xs, [])

/-- 43_decode.md R168, for the block's own order of equal-weight Internal nodes (decision D9): BUILD, GENTAB, ENCODE,
DECODE of a written, non-empty text whose encoding fits gives the text back, with ERR = 0 after each, for either value
of CFG.LEGACY_CD and for every N. -/
def Obligations.RoundTrip : Prop :=
  ∀ s : State, s.params.wellFormed = true → s.textLen ≠ 0 → s.textLen.toNat ≤ s.params.maxText →
    (∀ i < s.textLen.toNat, (s.text.read i).isSome = true) →
    ∃ t u, exec .build s = .next t ∧ t.status.err = none ∧ exec .gentab t = .next u ∧ u.status.err = none ∧
      ((concatCodes u.codeOf s.textSymbols).length ≤ s.params.maxStream →
        ∃ v w, exec .encode u = .next v ∧ v.status.err = none ∧ exec .decode v = .next w ∧ w.status.err = none ∧
          w.outLen = s.textLen ∧ (∀ i < s.textLen.toNat, w.out.read i = some (s.textAt i)) ∧
          KeepsText s w ∧ KeepsControl s w)

/-! ### CLEAR and the whole machine -/

/-- 44_control.md R178: CLEAR always succeeds; what it sets, what it keeps; it alone of the commands ends in IDLE,
and only it and reset clear STICKY. -/
def Obligations.ClearRestoresTheRegisters : Prop :=
  (∀ s : State, ∃ t, exec .clear s = .next t ∧ t.status = Status.cleared ∧ t.status.word = 0 ∧
    t.textLen = 0 ∧ t.streamLen = 0 ∧ t.outLen = 0 ∧ t.root = 0 ∧ t.nodeCnt = 0 ∧ t.nleaf = 0 ∧ t.errInfo = 0 ∧
    (∀ i, t.text.read i = s.text.read i ∧ t.stream.read i = s.stream.read i ∧ t.out.read i = s.out.read i) ∧
    (∀ i, t.freq.read i = none ∧ t.node.read i = none ∧ t.codeLen.read i = none ∧ t.codeBit.read i = none) ∧
    KeepsControl s t ∧ KeepsPort s t) ∧
  (∀ s t : State, ∀ i ∈ [Instr.build, .gentab, .encode, .decode], exec i s = .next t → t.status.state ≠ .idle) ∧
  (∀ s t : State, step s = .next t → s.status.sticky = true → t.status.sticky = false →
    s.resets ∨ (s.completes ∧ s.cmd = 0x00000005))

/-- 10_state.md R42: what each command leaves unchanged, on every path it can take, errors included. -/
def Obligations.CommandFrames : Prop :=
  ∀ s t : State,
    (exec .build s = .next t →
      KeepsText s t ∧ KeepsStream s t ∧ KeepsOut s t ∧ KeepsControl s t ∧ KeepsPort s t) ∧
    (exec .gentab s = .next t → KeepsText s t ∧ KeepsStream s t ∧ KeepsOut s t ∧ KeepsTree s t ∧
      t.status.treeValid = s.status.treeValid ∧ KeepsControl s t ∧ KeepsPort s t) ∧
    (exec .encode s = .next t → KeepsText s t ∧ KeepsOut s t ∧ KeepsTree s t ∧ KeepsTable s t ∧
      KeepsValidFlags s t ∧ KeepsControl s t ∧ KeepsPort s t) ∧
    (exec .decode s = .next t → KeepsText s t ∧ KeepsStream s t ∧ KeepsTree s t ∧ KeepsTable s t ∧
      KeepsValidFlags s t ∧ KeepsControl s t ∧ KeepsPort s t)

/-- 20_memory.md R67, R74, 10_state.md R32, R42: no transaction changes a table, OUT, a valid flag, the recorded
error or ERR_INFO: only a completion or a reset does. -/
def Obligations.OnlyCompletionsChangeResults : Prop :=
  ∀ s t : State, step s = .next t → ¬ s.completes → ¬ s.resets →
    KeepsTree s t ∧ KeepsTable s t ∧ KeepsOut s t ∧ KeepsValidFlags s t ∧
    t.status.err = s.status.err ∧ t.status.sticky = s.status.sticky ∧ t.errInfo = s.errInfo

/-- 60_exceptions.md R194: reissuing a failed command on unchanged inputs gives the same error with the same
ERR_INFO, where the inputs it reads have been written. -/
def Obligations.ReissuedCommandRepeatsItsError : Prop :=
  ∀ (s t : State) (e : CmdError), s.Inv →
    (exec .build s = .next t → t.status.err = some e →
      ∃ u, exec .build t = .next u ∧ u.status.err = some e ∧ u.errInfo = t.errInfo) ∧
    (exec .gentab s = .next t → t.status.err = some e →
      ∃ u, exec .gentab t = .next u ∧ u.status.err = some e ∧ u.errInfo = t.errInfo) ∧
    ((∀ i < s.textLen.toNat, (s.text.read i).isSome = true) → exec .encode s = .next t → t.status.err = some e →
      ∃ u, exec .encode t = .next u ∧ u.status.err = some e ∧ u.errInfo = t.errInfo) ∧
    ((∀ k < s.streamLen.toNat, (s.stream.read k).isSome = true) → exec .decode s = .next t → t.status.err = some e →
      ∃ u, exec .decode t = .next u ∧ u.status.err = some e ∧ u.errInfo = t.errInfo)
end

