-- ==== Sys2Proof/Laws/Memory.lean ====
section
/-! SUPPORT. Laws/Memory.lean: the laws of element-addressed memories: read after write, and every operation keeps
the canonical form. -/

namespace Sys2Proof.Machine

variable {α : Type}

@[simp] theorem Memory.read_nil (i : Nat) : Memory.read ([] : Memory α) i = none := rfl

@[simp] theorem Memory.writeAll_nil (m : Memory α) (i : Nat) : Memory.writeAll m i [] = m := rfl

@[simp] theorem Memory.writeAll_cons (m : Memory α) (i : Nat) (v : α) (vs : List α) :
    Memory.writeAll m i (v :: vs) = Memory.writeAll (Memory.write m i v) (i + 1) vs := rfl

/-- Read after write to the same element. -/
@[simp] theorem Memory.read_write_same (m : Memory α) (i : Nat) (v : α) : (Memory.write m i v).read i = some v := by
  induction m with
  | nil => simp [Memory.write, Memory.read]
  | cons e rest ih =>
    obtain ⟨k, w⟩ := e
    unfold Memory.write
    split
    · simp [Memory.read]
    · split
      · simp [Memory.read]
      · rename_i h1 h2
        have : k ≠ i := fun h => h2 h.symm
        simpa [Memory.read, this] using ih

/-- A write leaves every other element alone. -/
theorem Memory.read_write_other (m : Memory α) {i j : Nat} (v : α) (h : j ≠ i) :
    (Memory.write m i v).read j = Memory.read m j := by
  induction m with
  | nil => simp [Memory.write, Memory.read, h.symm]
  | cons e rest ih =>
    obtain ⟨k, w⟩ := e
    unfold Memory.write
    split
    · simp [Memory.read, h.symm]
    · split
      · rename_i h1 h2
        subst h2
        simp [Memory.read, h.symm]
      · simp [Memory.read, ih]

theorem Memory.read_write (m : Memory α) (i j : Nat) (v : α) :
    (Memory.write m i v).read j = if j = i then some v else Memory.read m j := by
  split
  · rename_i h; subst h; simp
  · rename_i h; exact Memory.read_write_other m v h

/-- The indices of a written memory. -/
theorem Memory.mem_keys_write (m : Memory α) (i : Nat) (v : α) (k : Nat)
    (h : k ∈ (Memory.write m i v).map Prod.fst) : k = i ∨ k ∈ m.map Prod.fst := by
  induction m with
  | nil => simp [Memory.write] at h; exact .inl h
  | cons e rest ih =>
    obtain ⟨k', w⟩ := e
    unfold Memory.write at h
    split at h
    · simp at h ⊢; tauto
    · split at h
      · simp at h ⊢; tauto
      · simp only [List.map_cons, List.mem_cons] at h ⊢
        rcases h with h | h
        · exact .inr (.inl h)
        · rcases ih h with h | h
          · exact .inl h
          · exact .inr (.inr h)

/-- A write keeps the canonical form. -/
theorem Memory.wf_write (m : Memory α) (i : Nat) (v : α) (h : Memory.wf m) : Memory.wf (Memory.write m i v) := by
  induction m with
  | nil => simp [Memory.write, Memory.wf]
  | cons e rest ih =>
    obtain ⟨k, w⟩ := e
    simp only [Memory.wf, List.map_cons, List.pairwise_cons] at h
    unfold Memory.write
    split
    · rename_i h1
      simp only [Memory.wf, List.map_cons, List.pairwise_cons, List.mem_cons]
      refine ⟨?_, h⟩
      rintro a (rfl | ha)
      · exact h1
      · exact Nat.lt_trans h1 (h.1 a ha)
    · split
      · rename_i h1 h2
        subst h2
        simpa only [Memory.wf, List.map_cons, List.pairwise_cons] using h
      · rename_i h1 h2
        simp only [Memory.wf, List.map_cons, List.pairwise_cons]
        refine ⟨fun a ha => ?_, ih h.2⟩
        rcases Memory.mem_keys_write rest i v a ha with rfl | ha
        · omega
        · exact h.1 a ha

theorem Memory.wf_writeAll (m : Memory α) (i : Nat) (vs : List α) (h : Memory.wf m) :
    Memory.wf (Memory.writeAll m i vs) := by
  induction vs generalizing m i with
  | nil => exact h
  | cons v vs ih => exact ih _ _ (Memory.wf_write m i v h)

/-- A block of writes: inside the block the list's value, outside what was there. -/
theorem Memory.read_writeAll (m : Memory α) (i : Nat) (vs : List α) (j : Nat) :
    (Memory.writeAll m i vs).read j =
      if i ≤ j ∧ j < i + vs.length then vs[j - i]? else Memory.read m j := by
  induction vs generalizing m i with
  | nil => simp
  | cons v vs ih =>
    simp only [Memory.writeAll_cons, ih, Memory.read_write, List.length_cons]
    by_cases h1 : j = i
    · subst h1
      simp
    · by_cases h2 : i + 1 ≤ j ∧ j < i + 1 + vs.length
      · have h3 : i ≤ j ∧ j < i + (vs.length + 1) := by omega
        have h4 : j - i = (j - (i + 1)) + 1 := by omega
        rw [if_pos h2, if_pos h3, h4, List.getElem?_cons_succ]
      · have h3 : ¬ (i ≤ j ∧ j < i + (vs.length + 1)) := by omega
        rw [if_neg h2, if_neg h3, if_neg h1]

@[simp] theorem Memory.read_ofList (vs : List α) (j : Nat) : (Memory.ofList vs).read j = vs[j]? := by
  unfold Memory.ofList
  rw [Memory.read_writeAll]
  by_cases h : j < vs.length
  · simp [h]
  · simp [h]

theorem Memory.wf_ofList (vs : List α) : Memory.wf (Memory.ofList vs) :=
  Memory.wf_writeAll [] 0 vs List.Pairwise.nil

@[simp] theorem Memory.keys_table (n : Nat) (f : Nat → α) : (Memory.table n f).map Prod.fst = List.range n := by
  simp [Memory.table, Function.comp_def]

theorem Memory.wf_table (n : Nat) (f : Nat → α) : Memory.wf (Memory.table n f) := by
  simpa [Memory.wf] using List.pairwise_lt_range

theorem Memory.read_eq_none_iff (m : Memory α) (i : Nat) : Memory.read m i = none ↔ i ∉ m.map Prod.fst := by
  induction m with
  | nil => simp
  | cons e rest ih =>
    obtain ⟨k, w⟩ := e
    by_cases h : k = i
    · subst h; simp [Memory.read]
    · simp only [Memory.read, h, if_false, ih, List.map_cons, List.mem_cons]
      have : i ≠ k := fun h' => h h'.symm
      simp [this]

theorem Memory.mem_of_read (m : Memory α) (i : Nat) (v : α) (h : Memory.read m i = some v) : (i, v) ∈ m := by
  induction m with
  | nil => simp at h
  | cons e rest ih =>
    obtain ⟨k, w⟩ := e
    unfold Memory.read at h
    split at h
    · rename_i hk; subst hk; simp at h; subst h; simp
    · exact List.mem_cons_of_mem _ (ih h)

theorem Memory.read_table (n : Nat) (f : Nat → α) (i : Nat) :
    (Memory.table n f).read i = if i < n then some (f i) else none := by
  split
  · rename_i h
    have hs : (Memory.table n f).read i ≠ none := by
      rw [ne_eq, Memory.read_eq_none_iff]; simp [h]
    obtain ⟨v, hv⟩ := Option.ne_none_iff_exists'.mp hs
    have := Memory.mem_of_read _ _ _ hv
    simp only [Memory.table, List.mem_map, List.mem_range, Prod.mk.injEq] at this
    obtain ⟨a, _, rfl, rfl⟩ := this
    exact hv
  · rename_i h
    rw [Memory.read_eq_none_iff]; simp [h]

/-- Two canonical memories that read the same are the same. -/
theorem Memory.ext_of_wf {m m' : Memory α} (h : Memory.wf m) (h' : Memory.wf m')
    (hr : ∀ i, Memory.read m i = Memory.read m' i) : m = m' := by
  induction m generalizing m' with
  | nil =>
    cases m' with
    | nil => rfl
    | cons e r => have := hr e.1; obtain ⟨k, w⟩ := e; simp [Memory.read] at this
  | cons e rest ih =>
    obtain ⟨k, w⟩ := e
    cases m' with
    | nil => have := hr k; simp [Memory.read] at this
    | cons e' rest' =>
      obtain ⟨k', w'⟩ := e'
      simp only [Memory.wf, List.map_cons, List.pairwise_cons] at h h'
      have hk : k = k' := by
        rcases Nat.lt_trichotomy k k' with hlt | heq | hgt
        · have h1 := hr k
          have h2 : Memory.read rest' k = none := by
            rw [Memory.read_eq_none_iff]
            intro hm; have := h'.1 k hm; omega
          simp [Memory.read, h2, Nat.ne_of_gt hlt] at h1
        · exact heq
        · have h1 := hr k'
          have h2 : Memory.read rest k' = none := by
            rw [Memory.read_eq_none_iff]
            intro hm; have := h.1 k' hm; omega
          simp [Memory.read, h2, Nat.ne_of_gt hgt] at h1
      subst hk
      have hw : w = w' := by have := hr k; simpa [Memory.read] using this
      subst hw
      congr 1
      refine ih h.2 h'.2 fun i => ?_
      by_cases hi : k = i
      · subst hi
        have h1 : Memory.read rest k = none := by
          rw [Memory.read_eq_none_iff]; intro hm; exact Nat.lt_irrefl _ (h.1 k hm)
        have h2 : Memory.read rest' k = none := by
          rw [Memory.read_eq_none_iff]; intro hm; exact Nat.lt_irrefl _ (h'.1 k hm)
        rw [h1, h2]
      · have := hr i
        simpa [Memory.read, hi] using this

end Sys2Proof.Machine
end

