-- ==== Sys2Proof/Laws/State.lean ====
section
/-! SUPPORT. Laws/State.lean: one lemma per field per update of State, so that no proof unfolds a record update. -/

namespace Sys2Proof.Machine

variable (s : State)

@[simp] theorem State.drawn_params : s.drawn.params = s.params := rfl
@[simp] theorem State.drawn_cmd : s.drawn.cmd = s.cmd := rfl
@[simp] theorem State.drawn_status : s.drawn.status = s.status := rfl
@[simp] theorem State.drawn_cfg : s.drawn.cfg = s.cfg := rfl
@[simp] theorem State.drawn_textLen : s.drawn.textLen = s.textLen := rfl
@[simp] theorem State.drawn_streamLen : s.drawn.streamLen = s.streamLen := rfl
@[simp] theorem State.drawn_outLen : s.drawn.outLen = s.outLen := rfl
@[simp] theorem State.drawn_root : s.drawn.root = s.root := rfl
@[simp] theorem State.drawn_nodeCnt : s.drawn.nodeCnt = s.nodeCnt := rfl
@[simp] theorem State.drawn_nleaf : s.drawn.nleaf = s.nleaf := rfl
@[simp] theorem State.drawn_errInfo : s.drawn.errInfo = s.errInfo := rfl
@[simp] theorem State.drawn_text : s.drawn.text = s.text := rfl
@[simp] theorem State.drawn_stream : s.drawn.stream = s.stream := rfl
@[simp] theorem State.drawn_out : s.drawn.out = s.out := rfl
@[simp] theorem State.drawn_freq : s.drawn.freq = s.freq := rfl
@[simp] theorem State.drawn_node : s.drawn.node = s.node := rfl
@[simp] theorem State.drawn_codeLen : s.drawn.codeLen = s.codeLen := rfl
@[simp] theorem State.drawn_codeBit : s.drawn.codeBit = s.codeBit := rfl
@[simp] theorem State.drawn_answer : s.drawn.answer = s.answer := rfl
@[simp] theorem State.drawn_pending : s.drawn.pending = s.pending := rfl
@[simp] theorem State.drawn_draws : s.drawn.draws = s.draws + 1 := rfl

@[simp] theorem State.issue_params (w : Word) : (s.issue w).params = s.params := rfl
@[simp] theorem State.issue_cmd (w : Word) : (s.issue w).cmd = w := rfl
@[simp] theorem State.issue_status (w : Word) : (s.issue w).status = s.status.issued := rfl
@[simp] theorem State.issue_cfg (w : Word) : (s.issue w).cfg = s.cfg := rfl
@[simp] theorem State.issue_textLen (w : Word) : (s.issue w).textLen = s.textLen := rfl
@[simp] theorem State.issue_streamLen (w : Word) : (s.issue w).streamLen = s.streamLen := rfl
@[simp] theorem State.issue_outLen (w : Word) : (s.issue w).outLen = s.outLen := rfl
@[simp] theorem State.issue_root (w : Word) : (s.issue w).root = s.root := rfl
@[simp] theorem State.issue_nodeCnt (w : Word) : (s.issue w).nodeCnt = s.nodeCnt := rfl
@[simp] theorem State.issue_nleaf (w : Word) : (s.issue w).nleaf = s.nleaf := rfl
@[simp] theorem State.issue_errInfo (w : Word) : (s.issue w).errInfo = s.errInfo := rfl
@[simp] theorem State.issue_text (w : Word) : (s.issue w).text = s.text := rfl
@[simp] theorem State.issue_stream (w : Word) : (s.issue w).stream = s.stream := rfl
@[simp] theorem State.issue_out (w : Word) : (s.issue w).out = s.out := rfl
@[simp] theorem State.issue_freq (w : Word) : (s.issue w).freq = s.freq := rfl
@[simp] theorem State.issue_node (w : Word) : (s.issue w).node = s.node := rfl
@[simp] theorem State.issue_codeLen (w : Word) : (s.issue w).codeLen = s.codeLen := rfl
@[simp] theorem State.issue_codeBit (w : Word) : (s.issue w).codeBit = s.codeBit := rfl
@[simp] theorem State.issue_answer (w : Word) : (s.issue w).answer = s.answer := rfl
@[simp] theorem State.issue_pending (w : Word) : (s.issue w).pending = s.pending := rfl
@[simp] theorem State.issue_draws (w : Word) : (s.issue w).draws = s.draws := rfl

@[simp] theorem State.succeed_params : s.succeed.params = s.params := rfl
@[simp] theorem State.succeed_cmd : s.succeed.cmd = s.cmd := rfl
@[simp] theorem State.succeed_status : s.succeed.status = s.status.succeeded := rfl
@[simp] theorem State.succeed_cfg : s.succeed.cfg = s.cfg := rfl
@[simp] theorem State.succeed_textLen : s.succeed.textLen = s.textLen := rfl
@[simp] theorem State.succeed_streamLen : s.succeed.streamLen = s.streamLen := rfl
@[simp] theorem State.succeed_outLen : s.succeed.outLen = s.outLen := rfl
@[simp] theorem State.succeed_root : s.succeed.root = s.root := rfl
@[simp] theorem State.succeed_nodeCnt : s.succeed.nodeCnt = s.nodeCnt := rfl
@[simp] theorem State.succeed_nleaf : s.succeed.nleaf = s.nleaf := rfl
@[simp] theorem State.succeed_errInfo : s.succeed.errInfo = 0 := rfl
@[simp] theorem State.succeed_text : s.succeed.text = s.text := rfl
@[simp] theorem State.succeed_stream : s.succeed.stream = s.stream := rfl
@[simp] theorem State.succeed_out : s.succeed.out = s.out := rfl
@[simp] theorem State.succeed_freq : s.succeed.freq = s.freq := rfl
@[simp] theorem State.succeed_node : s.succeed.node = s.node := rfl
@[simp] theorem State.succeed_codeLen : s.succeed.codeLen = s.codeLen := rfl
@[simp] theorem State.succeed_codeBit : s.succeed.codeBit = s.codeBit := rfl
@[simp] theorem State.succeed_answer : s.succeed.answer = s.answer := rfl
@[simp] theorem State.succeed_pending : s.succeed.pending = s.pending := rfl
@[simp] theorem State.succeed_draws : s.succeed.draws = s.draws + 1 := rfl

@[simp] theorem State.dropTree_params : s.dropTree.params = s.params := rfl
@[simp] theorem State.dropTree_cmd : s.dropTree.cmd = s.cmd := rfl
@[simp] theorem State.dropTree_status : s.dropTree.status = s.status := rfl
@[simp] theorem State.dropTree_cfg : s.dropTree.cfg = s.cfg := rfl
@[simp] theorem State.dropTree_textLen : s.dropTree.textLen = s.textLen := rfl
@[simp] theorem State.dropTree_streamLen : s.dropTree.streamLen = s.streamLen := rfl
@[simp] theorem State.dropTree_outLen : s.dropTree.outLen = s.outLen := rfl
@[simp] theorem State.dropTree_root : s.dropTree.root = s.root := rfl
@[simp] theorem State.dropTree_nodeCnt : s.dropTree.nodeCnt = s.nodeCnt := rfl
@[simp] theorem State.dropTree_nleaf : s.dropTree.nleaf = s.nleaf := rfl
@[simp] theorem State.dropTree_errInfo : s.dropTree.errInfo = s.errInfo := rfl
@[simp] theorem State.dropTree_text : s.dropTree.text = s.text := rfl
@[simp] theorem State.dropTree_stream : s.dropTree.stream = s.stream := rfl
@[simp] theorem State.dropTree_out : s.dropTree.out = s.out := rfl
@[simp] theorem State.dropTree_freq : s.dropTree.freq = [] := rfl
@[simp] theorem State.dropTree_node : s.dropTree.node = [] := rfl
@[simp] theorem State.dropTree_codeLen : s.dropTree.codeLen = s.codeLen := rfl
@[simp] theorem State.dropTree_codeBit : s.dropTree.codeBit = s.codeBit := rfl
@[simp] theorem State.dropTree_answer : s.dropTree.answer = s.answer := rfl
@[simp] theorem State.dropTree_pending : s.dropTree.pending = s.pending := rfl
@[simp] theorem State.dropTree_draws : s.dropTree.draws = s.draws := rfl

@[simp] theorem State.dropTable_params : s.dropTable.params = s.params := rfl
@[simp] theorem State.dropTable_cmd : s.dropTable.cmd = s.cmd := rfl
@[simp] theorem State.dropTable_status : s.dropTable.status = s.status := rfl
@[simp] theorem State.dropTable_cfg : s.dropTable.cfg = s.cfg := rfl
@[simp] theorem State.dropTable_textLen : s.dropTable.textLen = s.textLen := rfl
@[simp] theorem State.dropTable_streamLen : s.dropTable.streamLen = s.streamLen := rfl
@[simp] theorem State.dropTable_outLen : s.dropTable.outLen = s.outLen := rfl
@[simp] theorem State.dropTable_root : s.dropTable.root = s.root := rfl
@[simp] theorem State.dropTable_nodeCnt : s.dropTable.nodeCnt = s.nodeCnt := rfl
@[simp] theorem State.dropTable_nleaf : s.dropTable.nleaf = s.nleaf := rfl
@[simp] theorem State.dropTable_errInfo : s.dropTable.errInfo = s.errInfo := rfl
@[simp] theorem State.dropTable_text : s.dropTable.text = s.text := rfl
@[simp] theorem State.dropTable_stream : s.dropTable.stream = s.stream := rfl
@[simp] theorem State.dropTable_out : s.dropTable.out = s.out := rfl
@[simp] theorem State.dropTable_freq : s.dropTable.freq = s.freq := rfl
@[simp] theorem State.dropTable_node : s.dropTable.node = s.node := rfl
@[simp] theorem State.dropTable_codeLen : s.dropTable.codeLen = [] := rfl
@[simp] theorem State.dropTable_codeBit : s.dropTable.codeBit = [] := rfl
@[simp] theorem State.dropTable_answer : s.dropTable.answer = s.answer := rfl
@[simp] theorem State.dropTable_pending : s.dropTable.pending = s.pending := rfl
@[simp] theorem State.dropTable_draws : s.dropTable.draws = s.draws := rfl

@[simp] theorem State.record_params (e : CmdError) (info : Word) : (s.record e info).params = s.params := rfl
@[simp] theorem State.record_cmd (e : CmdError) (info : Word) : (s.record e info).cmd = s.cmd := rfl
@[simp] theorem State.record_status (e : CmdError) (info : Word) : (s.record e info).status = s.status.failed e := rfl
@[simp] theorem State.record_cfg (e : CmdError) (info : Word) : (s.record e info).cfg = s.cfg := rfl
@[simp] theorem State.record_textLen (e : CmdError) (info : Word) : (s.record e info).textLen = s.textLen := rfl
@[simp] theorem State.record_streamLen (e : CmdError) (info : Word) : (s.record e info).streamLen = s.streamLen := rfl
@[simp] theorem State.record_outLen (e : CmdError) (info : Word) : (s.record e info).outLen = s.outLen := rfl
@[simp] theorem State.record_root (e : CmdError) (info : Word) : (s.record e info).root = s.root := rfl
@[simp] theorem State.record_nodeCnt (e : CmdError) (info : Word) : (s.record e info).nodeCnt = s.nodeCnt := rfl
@[simp] theorem State.record_nleaf (e : CmdError) (info : Word) : (s.record e info).nleaf = s.nleaf := rfl
@[simp] theorem State.record_errInfo (e : CmdError) (info : Word) : (s.record e info).errInfo = info := rfl
@[simp] theorem State.record_text (e : CmdError) (info : Word) : (s.record e info).text = s.text := rfl
@[simp] theorem State.record_stream (e : CmdError) (info : Word) : (s.record e info).stream = s.stream := rfl
@[simp] theorem State.record_out (e : CmdError) (info : Word) : (s.record e info).out = s.out := rfl
@[simp] theorem State.record_freq (e : CmdError) (info : Word) : (s.record e info).freq = s.freq := rfl
@[simp] theorem State.record_node (e : CmdError) (info : Word) : (s.record e info).node = s.node := rfl
@[simp] theorem State.record_codeLen (e : CmdError) (info : Word) : (s.record e info).codeLen = s.codeLen := rfl
@[simp] theorem State.record_codeBit (e : CmdError) (info : Word) : (s.record e info).codeBit = s.codeBit := rfl
@[simp] theorem State.record_answer (e : CmdError) (info : Word) : (s.record e info).answer = s.answer := rfl
@[simp] theorem State.record_pending (e : CmdError) (info : Word) : (s.record e info).pending = s.pending := rfl
@[simp] theorem State.record_draws (e : CmdError) (info : Word) : (s.record e info).draws = s.draws := rfl

@[simp] theorem State.answerWith_params (w : Word) : (s.answerWith w).params = s.params := rfl
@[simp] theorem State.answerWith_cmd (w : Word) : (s.answerWith w).cmd = s.cmd := rfl
@[simp] theorem State.answerWith_status (w : Word) : (s.answerWith w).status = s.status := rfl
@[simp] theorem State.answerWith_cfg (w : Word) : (s.answerWith w).cfg = s.cfg := rfl
@[simp] theorem State.answerWith_textLen (w : Word) : (s.answerWith w).textLen = s.textLen := rfl
@[simp] theorem State.answerWith_streamLen (w : Word) : (s.answerWith w).streamLen = s.streamLen := rfl
@[simp] theorem State.answerWith_outLen (w : Word) : (s.answerWith w).outLen = s.outLen := rfl
@[simp] theorem State.answerWith_root (w : Word) : (s.answerWith w).root = s.root := rfl
@[simp] theorem State.answerWith_nodeCnt (w : Word) : (s.answerWith w).nodeCnt = s.nodeCnt := rfl
@[simp] theorem State.answerWith_nleaf (w : Word) : (s.answerWith w).nleaf = s.nleaf := rfl
@[simp] theorem State.answerWith_errInfo (w : Word) : (s.answerWith w).errInfo = s.errInfo := rfl
@[simp] theorem State.answerWith_text (w : Word) : (s.answerWith w).text = s.text := rfl
@[simp] theorem State.answerWith_stream (w : Word) : (s.answerWith w).stream = s.stream := rfl
@[simp] theorem State.answerWith_out (w : Word) : (s.answerWith w).out = s.out := rfl
@[simp] theorem State.answerWith_freq (w : Word) : (s.answerWith w).freq = s.freq := rfl
@[simp] theorem State.answerWith_node (w : Word) : (s.answerWith w).node = s.node := rfl
@[simp] theorem State.answerWith_codeLen (w : Word) : (s.answerWith w).codeLen = s.codeLen := rfl
@[simp] theorem State.answerWith_codeBit (w : Word) : (s.answerWith w).codeBit = s.codeBit := rfl
@[simp] theorem State.answerWith_answer (w : Word) : (s.answerWith w).answer = some { fault := false, rdata := w } := rfl
@[simp] theorem State.answerWith_pending (w : Word) : (s.answerWith w).pending = s.pending := rfl
@[simp] theorem State.answerWith_draws (w : Word) : (s.answerWith w).draws = s.draws + 1 := rfl

@[simp] theorem State.acknowledge_params : s.acknowledge.params = s.params := rfl
@[simp] theorem State.acknowledge_cmd : s.acknowledge.cmd = s.cmd := rfl
@[simp] theorem State.acknowledge_status : s.acknowledge.status = s.status := rfl
@[simp] theorem State.acknowledge_cfg : s.acknowledge.cfg = s.cfg := rfl
@[simp] theorem State.acknowledge_textLen : s.acknowledge.textLen = s.textLen := rfl
@[simp] theorem State.acknowledge_streamLen : s.acknowledge.streamLen = s.streamLen := rfl
@[simp] theorem State.acknowledge_outLen : s.acknowledge.outLen = s.outLen := rfl
@[simp] theorem State.acknowledge_root : s.acknowledge.root = s.root := rfl
@[simp] theorem State.acknowledge_nodeCnt : s.acknowledge.nodeCnt = s.nodeCnt := rfl
@[simp] theorem State.acknowledge_nleaf : s.acknowledge.nleaf = s.nleaf := rfl
@[simp] theorem State.acknowledge_errInfo : s.acknowledge.errInfo = s.errInfo := rfl
@[simp] theorem State.acknowledge_text : s.acknowledge.text = s.text := rfl
@[simp] theorem State.acknowledge_stream : s.acknowledge.stream = s.stream := rfl
@[simp] theorem State.acknowledge_out : s.acknowledge.out = s.out := rfl
@[simp] theorem State.acknowledge_freq : s.acknowledge.freq = s.freq := rfl
@[simp] theorem State.acknowledge_node : s.acknowledge.node = s.node := rfl
@[simp] theorem State.acknowledge_codeLen : s.acknowledge.codeLen = s.codeLen := rfl
@[simp] theorem State.acknowledge_codeBit : s.acknowledge.codeBit = s.codeBit := rfl
@[simp] theorem State.acknowledge_answer : s.acknowledge.answer = some { fault := false, rdata := Config.unspecifiedAnswer s.draws } := rfl
@[simp] theorem State.acknowledge_pending : s.acknowledge.pending = s.pending := rfl
@[simp] theorem State.acknowledge_draws : s.acknowledge.draws = s.draws + 1 := rfl

@[simp] theorem State.accessFault_params : s.accessFault.params = s.params := rfl
@[simp] theorem State.accessFault_cmd : s.accessFault.cmd = s.cmd := rfl
@[simp] theorem State.accessFault_status : s.accessFault.status = s.status := rfl
@[simp] theorem State.accessFault_cfg : s.accessFault.cfg = s.cfg := rfl
@[simp] theorem State.accessFault_textLen : s.accessFault.textLen = s.textLen := rfl
@[simp] theorem State.accessFault_streamLen : s.accessFault.streamLen = s.streamLen := rfl
@[simp] theorem State.accessFault_outLen : s.accessFault.outLen = s.outLen := rfl
@[simp] theorem State.accessFault_root : s.accessFault.root = s.root := rfl
@[simp] theorem State.accessFault_nodeCnt : s.accessFault.nodeCnt = s.nodeCnt := rfl
@[simp] theorem State.accessFault_nleaf : s.accessFault.nleaf = s.nleaf := rfl
@[simp] theorem State.accessFault_errInfo : s.accessFault.errInfo = s.errInfo := rfl
@[simp] theorem State.accessFault_text : s.accessFault.text = s.text := rfl
@[simp] theorem State.accessFault_stream : s.accessFault.stream = s.stream := rfl
@[simp] theorem State.accessFault_out : s.accessFault.out = s.out := rfl
@[simp] theorem State.accessFault_freq : s.accessFault.freq = s.freq := rfl
@[simp] theorem State.accessFault_node : s.accessFault.node = s.node := rfl
@[simp] theorem State.accessFault_codeLen : s.accessFault.codeLen = s.codeLen := rfl
@[simp] theorem State.accessFault_codeBit : s.accessFault.codeBit = s.codeBit := rfl
@[simp] theorem State.accessFault_answer : s.accessFault.answer = some { fault := true, rdata := Config.unspecifiedAnswer s.draws } := rfl
@[simp] theorem State.accessFault_pending : s.accessFault.pending = s.pending := rfl
@[simp] theorem State.accessFault_draws : s.accessFault.draws = s.draws + 1 := rfl

@[simp] theorem State.treeWritten_params (freq : Memory Nat) (b : Builder) : (s.treeWritten freq b).params = s.params := rfl
@[simp] theorem State.treeWritten_cmd (freq : Memory Nat) (b : Builder) : (s.treeWritten freq b).cmd = s.cmd := rfl
@[simp] theorem State.treeWritten_status (freq : Memory Nat) (b : Builder) : (s.treeWritten freq b).status = s.status.treeBuilt := rfl
@[simp] theorem State.treeWritten_cfg (freq : Memory Nat) (b : Builder) : (s.treeWritten freq b).cfg = s.cfg := rfl
@[simp] theorem State.treeWritten_textLen (freq : Memory Nat) (b : Builder) : (s.treeWritten freq b).textLen = s.textLen := rfl
@[simp] theorem State.treeWritten_streamLen (freq : Memory Nat) (b : Builder) : (s.treeWritten freq b).streamLen = s.streamLen := rfl
@[simp] theorem State.treeWritten_outLen (freq : Memory Nat) (b : Builder) : (s.treeWritten freq b).outLen = s.outLen := rfl
@[simp] theorem State.treeWritten_root (freq : Memory Nat) (b : Builder) : (s.treeWritten freq b).root = BitVec.ofNat 32 b.rootSlot := rfl
@[simp] theorem State.treeWritten_nodeCnt (freq : Memory Nat) (b : Builder) : (s.treeWritten freq b).nodeCnt = BitVec.ofNat 32 (2 * (presentSymbols s.params.alpha freq).length - 1) := rfl
@[simp] theorem State.treeWritten_nleaf (freq : Memory Nat) (b : Builder) : (s.treeWritten freq b).nleaf = BitVec.ofNat 32 (presentSymbols s.params.alpha freq).length := rfl
@[simp] theorem State.treeWritten_errInfo (freq : Memory Nat) (b : Builder) : (s.treeWritten freq b).errInfo = s.errInfo := rfl
@[simp] theorem State.treeWritten_text (freq : Memory Nat) (b : Builder) : (s.treeWritten freq b).text = s.text := rfl
@[simp] theorem State.treeWritten_stream (freq : Memory Nat) (b : Builder) : (s.treeWritten freq b).stream = s.stream := rfl
@[simp] theorem State.treeWritten_out (freq : Memory Nat) (b : Builder) : (s.treeWritten freq b).out = s.out := rfl
@[simp] theorem State.treeWritten_freq (freq : Memory Nat) (b : Builder) : (s.treeWritten freq b).freq = freq := rfl
@[simp] theorem State.treeWritten_node (freq : Memory Nat) (b : Builder) : (s.treeWritten freq b).node = Memory.ofList b.nodes := rfl
@[simp] theorem State.treeWritten_codeLen (freq : Memory Nat) (b : Builder) : (s.treeWritten freq b).codeLen = [] := rfl
@[simp] theorem State.treeWritten_codeBit (freq : Memory Nat) (b : Builder) : (s.treeWritten freq b).codeBit = [] := rfl
@[simp] theorem State.treeWritten_answer (freq : Memory Nat) (b : Builder) : (s.treeWritten freq b).answer = s.answer := rfl
@[simp] theorem State.treeWritten_pending (freq : Memory Nat) (b : Builder) : (s.treeWritten freq b).pending = s.pending := rfl
@[simp] theorem State.treeWritten_draws (freq : Memory Nat) (b : Builder) : (s.treeWritten freq b).draws = s.draws := rfl

@[simp] theorem State.tableWritten_params (t : CodeTables) : (s.tableWritten t).params = s.params := rfl
@[simp] theorem State.tableWritten_cmd (t : CodeTables) : (s.tableWritten t).cmd = s.cmd := rfl
@[simp] theorem State.tableWritten_status (t : CodeTables) : (s.tableWritten t).status = s.status.tableBuilt := rfl
@[simp] theorem State.tableWritten_cfg (t : CodeTables) : (s.tableWritten t).cfg = s.cfg := rfl
@[simp] theorem State.tableWritten_textLen (t : CodeTables) : (s.tableWritten t).textLen = s.textLen := rfl
@[simp] theorem State.tableWritten_streamLen (t : CodeTables) : (s.tableWritten t).streamLen = s.streamLen := rfl
@[simp] theorem State.tableWritten_outLen (t : CodeTables) : (s.tableWritten t).outLen = s.outLen := rfl
@[simp] theorem State.tableWritten_root (t : CodeTables) : (s.tableWritten t).root = s.root := rfl
@[simp] theorem State.tableWritten_nodeCnt (t : CodeTables) : (s.tableWritten t).nodeCnt = s.nodeCnt := rfl
@[simp] theorem State.tableWritten_nleaf (t : CodeTables) : (s.tableWritten t).nleaf = s.nleaf := rfl
@[simp] theorem State.tableWritten_errInfo (t : CodeTables) : (s.tableWritten t).errInfo = s.errInfo := rfl
@[simp] theorem State.tableWritten_text (t : CodeTables) : (s.tableWritten t).text = s.text := rfl
@[simp] theorem State.tableWritten_stream (t : CodeTables) : (s.tableWritten t).stream = s.stream := rfl
@[simp] theorem State.tableWritten_out (t : CodeTables) : (s.tableWritten t).out = s.out := rfl
@[simp] theorem State.tableWritten_freq (t : CodeTables) : (s.tableWritten t).freq = s.freq := rfl
@[simp] theorem State.tableWritten_node (t : CodeTables) : (s.tableWritten t).node = s.node := rfl
@[simp] theorem State.tableWritten_codeLen (t : CodeTables) : (s.tableWritten t).codeLen = t.codeLen := rfl
@[simp] theorem State.tableWritten_codeBit (t : CodeTables) : (s.tableWritten t).codeBit = t.codeBit := rfl
@[simp] theorem State.tableWritten_answer (t : CodeTables) : (s.tableWritten t).answer = s.answer := rfl
@[simp] theorem State.tableWritten_pending (t : CodeTables) : (s.tableWritten t).pending = s.pending := rfl
@[simp] theorem State.tableWritten_draws (t : CodeTables) : (s.tableWritten t).draws = s.draws := rfl

@[simp] theorem State.streamWritten_params (bits : List Bit) : (s.streamWritten bits).params = s.params := rfl
@[simp] theorem State.streamWritten_cmd (bits : List Bit) : (s.streamWritten bits).cmd = s.cmd := rfl
@[simp] theorem State.streamWritten_status (bits : List Bit) : (s.streamWritten bits).status = s.status := rfl
@[simp] theorem State.streamWritten_cfg (bits : List Bit) : (s.streamWritten bits).cfg = s.cfg := rfl
@[simp] theorem State.streamWritten_textLen (bits : List Bit) : (s.streamWritten bits).textLen = s.textLen := rfl
@[simp] theorem State.streamWritten_streamLen (bits : List Bit) : (s.streamWritten bits).streamLen = BitVec.ofNat 32 bits.length := rfl
@[simp] theorem State.streamWritten_outLen (bits : List Bit) : (s.streamWritten bits).outLen = s.outLen := rfl
@[simp] theorem State.streamWritten_root (bits : List Bit) : (s.streamWritten bits).root = s.root := rfl
@[simp] theorem State.streamWritten_nodeCnt (bits : List Bit) : (s.streamWritten bits).nodeCnt = s.nodeCnt := rfl
@[simp] theorem State.streamWritten_nleaf (bits : List Bit) : (s.streamWritten bits).nleaf = s.nleaf := rfl
@[simp] theorem State.streamWritten_errInfo (bits : List Bit) : (s.streamWritten bits).errInfo = s.errInfo := rfl
@[simp] theorem State.streamWritten_text (bits : List Bit) : (s.streamWritten bits).text = s.text := rfl
@[simp] theorem State.streamWritten_stream (bits : List Bit) : (s.streamWritten bits).stream = s.stream.writeAll 0 bits := rfl
@[simp] theorem State.streamWritten_out (bits : List Bit) : (s.streamWritten bits).out = s.out := rfl
@[simp] theorem State.streamWritten_freq (bits : List Bit) : (s.streamWritten bits).freq = s.freq := rfl
@[simp] theorem State.streamWritten_node (bits : List Bit) : (s.streamWritten bits).node = s.node := rfl
@[simp] theorem State.streamWritten_codeLen (bits : List Bit) : (s.streamWritten bits).codeLen = s.codeLen := rfl
@[simp] theorem State.streamWritten_codeBit (bits : List Bit) : (s.streamWritten bits).codeBit = s.codeBit := rfl
@[simp] theorem State.streamWritten_answer (bits : List Bit) : (s.streamWritten bits).answer = s.answer := rfl
@[simp] theorem State.streamWritten_pending (bits : List Bit) : (s.streamWritten bits).pending = s.pending := rfl
@[simp] theorem State.streamWritten_draws (bits : List Bit) : (s.streamWritten bits).draws = s.draws := rfl

@[simp] theorem State.outWritten_params (xs : List Symbol) : (s.outWritten xs).params = s.params := rfl
@[simp] theorem State.outWritten_cmd (xs : List Symbol) : (s.outWritten xs).cmd = s.cmd := rfl
@[simp] theorem State.outWritten_status (xs : List Symbol) : (s.outWritten xs).status = s.status := rfl
@[simp] theorem State.outWritten_cfg (xs : List Symbol) : (s.outWritten xs).cfg = s.cfg := rfl
@[simp] theorem State.outWritten_textLen (xs : List Symbol) : (s.outWritten xs).textLen = s.textLen := rfl
@[simp] theorem State.outWritten_streamLen (xs : List Symbol) : (s.outWritten xs).streamLen = s.streamLen := rfl
@[simp] theorem State.outWritten_outLen (xs : List Symbol) : (s.outWritten xs).outLen = BitVec.ofNat 32 xs.length := rfl
@[simp] theorem State.outWritten_root (xs : List Symbol) : (s.outWritten xs).root = s.root := rfl
@[simp] theorem State.outWritten_nodeCnt (xs : List Symbol) : (s.outWritten xs).nodeCnt = s.nodeCnt := rfl
@[simp] theorem State.outWritten_nleaf (xs : List Symbol) : (s.outWritten xs).nleaf = s.nleaf := rfl
@[simp] theorem State.outWritten_errInfo (xs : List Symbol) : (s.outWritten xs).errInfo = s.errInfo := rfl
@[simp] theorem State.outWritten_text (xs : List Symbol) : (s.outWritten xs).text = s.text := rfl
@[simp] theorem State.outWritten_stream (xs : List Symbol) : (s.outWritten xs).stream = s.stream := rfl
@[simp] theorem State.outWritten_out (xs : List Symbol) : (s.outWritten xs).out = s.out.writeAll 0 xs := rfl
@[simp] theorem State.outWritten_freq (xs : List Symbol) : (s.outWritten xs).freq = s.freq := rfl
@[simp] theorem State.outWritten_node (xs : List Symbol) : (s.outWritten xs).node = s.node := rfl
@[simp] theorem State.outWritten_codeLen (xs : List Symbol) : (s.outWritten xs).codeLen = s.codeLen := rfl
@[simp] theorem State.outWritten_codeBit (xs : List Symbol) : (s.outWritten xs).codeBit = s.codeBit := rfl
@[simp] theorem State.outWritten_answer (xs : List Symbol) : (s.outWritten xs).answer = s.answer := rfl
@[simp] theorem State.outWritten_pending (xs : List Symbol) : (s.outWritten xs).pending = s.pending := rfl
@[simp] theorem State.outWritten_draws (xs : List Symbol) : (s.outWritten xs).draws = s.draws := rfl

@[simp] theorem State.clearNow_params : s.clearNow.params = s.params := rfl
@[simp] theorem State.clearNow_cmd : s.clearNow.cmd = s.cmd := rfl
@[simp] theorem State.clearNow_status : s.clearNow.status = Status.cleared := rfl
@[simp] theorem State.clearNow_cfg : s.clearNow.cfg = s.cfg := rfl
@[simp] theorem State.clearNow_textLen : s.clearNow.textLen = 0 := rfl
@[simp] theorem State.clearNow_streamLen : s.clearNow.streamLen = 0 := rfl
@[simp] theorem State.clearNow_outLen : s.clearNow.outLen = 0 := rfl
@[simp] theorem State.clearNow_root : s.clearNow.root = 0 := rfl
@[simp] theorem State.clearNow_nodeCnt : s.clearNow.nodeCnt = 0 := rfl
@[simp] theorem State.clearNow_nleaf : s.clearNow.nleaf = 0 := rfl
@[simp] theorem State.clearNow_errInfo : s.clearNow.errInfo = 0 := rfl
@[simp] theorem State.clearNow_text : s.clearNow.text = s.text := rfl
@[simp] theorem State.clearNow_stream : s.clearNow.stream = s.stream := rfl
@[simp] theorem State.clearNow_out : s.clearNow.out = s.out := rfl
@[simp] theorem State.clearNow_freq : s.clearNow.freq = [] := rfl
@[simp] theorem State.clearNow_node : s.clearNow.node = [] := rfl
@[simp] theorem State.clearNow_codeLen : s.clearNow.codeLen = [] := rfl
@[simp] theorem State.clearNow_codeBit : s.clearNow.codeBit = [] := rfl
@[simp] theorem State.clearNow_answer : s.clearNow.answer = s.answer := rfl
@[simp] theorem State.clearNow_pending : s.clearNow.pending = s.pending := rfl
@[simp] theorem State.clearNow_draws : s.clearNow.draws = s.draws := rfl

@[simp] theorem State.resetNow_params : s.resetNow.params = s.params := rfl
@[simp] theorem State.resetNow_cmd : s.resetNow.cmd = 0 := rfl
@[simp] theorem State.resetNow_status : s.resetNow.status = Status.cleared := rfl
@[simp] theorem State.resetNow_cfg : s.resetNow.cfg = { legacyCd := false } := rfl
@[simp] theorem State.resetNow_textLen : s.resetNow.textLen = 0 := rfl
@[simp] theorem State.resetNow_streamLen : s.resetNow.streamLen = 0 := rfl
@[simp] theorem State.resetNow_outLen : s.resetNow.outLen = 0 := rfl
@[simp] theorem State.resetNow_root : s.resetNow.root = 0 := rfl
@[simp] theorem State.resetNow_nodeCnt : s.resetNow.nodeCnt = 0 := rfl
@[simp] theorem State.resetNow_nleaf : s.resetNow.nleaf = 0 := rfl
@[simp] theorem State.resetNow_errInfo : s.resetNow.errInfo = 0 := rfl
@[simp] theorem State.resetNow_text : s.resetNow.text = [] := rfl
@[simp] theorem State.resetNow_stream : s.resetNow.stream = [] := rfl
@[simp] theorem State.resetNow_out : s.resetNow.out = [] := rfl
@[simp] theorem State.resetNow_freq : s.resetNow.freq = [] := rfl
@[simp] theorem State.resetNow_node : s.resetNow.node = [] := rfl
@[simp] theorem State.resetNow_codeLen : s.resetNow.codeLen = [] := rfl
@[simp] theorem State.resetNow_codeBit : s.resetNow.codeBit = [] := rfl
@[simp] theorem State.resetNow_answer : s.resetNow.answer = none := rfl
@[simp] theorem State.resetNow_pending : s.resetNow.pending = s.pending := rfl
@[simp] theorem State.resetNow_draws : s.resetNow.draws = s.draws + 1 := rfl

/-! The error effects, which depend on the error (60_exceptions.md R202), and `raise`. -/

@[simp] theorem State.errorEffects_params (e : CmdError) : (s.errorEffects e).params = s.params := by cases e <;> rfl
@[simp] theorem State.errorEffects_cmd (e : CmdError) : (s.errorEffects e).cmd = s.cmd := by cases e <;> rfl
@[simp] theorem State.errorEffects_cfg (e : CmdError) : (s.errorEffects e).cfg = s.cfg := by cases e <;> rfl
@[simp] theorem State.errorEffects_textLen (e : CmdError) : (s.errorEffects e).textLen = s.textLen := by cases e <;> rfl
@[simp] theorem State.errorEffects_errInfo (e : CmdError) : (s.errorEffects e).errInfo = s.errInfo := by cases e <;> rfl
@[simp] theorem State.errorEffects_text (e : CmdError) : (s.errorEffects e).text = s.text := by cases e <;> rfl
@[simp] theorem State.errorEffects_answer (e : CmdError) : (s.errorEffects e).answer = s.answer := by cases e <;> rfl
@[simp] theorem State.errorEffects_pending (e : CmdError) : (s.errorEffects e).pending = s.pending := by cases e <;> rfl
@[simp] theorem State.errorEffects_draws (e : CmdError) : (s.errorEffects e).draws = s.draws := by cases e <;> rfl
theorem State.errorEffects_status (e : CmdError) :
    (s.errorEffects e).status = if e = .emptyInput then s.status.treeLost else s.status := by cases e <;> rfl
theorem State.errorEffects_root (e : CmdError) :
    (s.errorEffects e).root = if e = .emptyInput then 0 else s.root := by cases e <;> rfl
theorem State.errorEffects_nodeCnt (e : CmdError) :
    (s.errorEffects e).nodeCnt = if e = .emptyInput then 0 else s.nodeCnt := by cases e <;> rfl
theorem State.errorEffects_nleaf (e : CmdError) :
    (s.errorEffects e).nleaf = if e = .emptyInput then 0 else s.nleaf := by cases e <;> rfl
theorem State.errorEffects_freq (e : CmdError) :
    (s.errorEffects e).freq = if e = .emptyInput then [] else s.freq := by cases e <;> rfl
theorem State.errorEffects_node (e : CmdError) :
    (s.errorEffects e).node = if e = .emptyInput then [] else s.node := by cases e <;> rfl
theorem State.errorEffects_codeLen (e : CmdError) :
    (s.errorEffects e).codeLen = if e = .emptyInput then [] else s.codeLen := by cases e <;> rfl
theorem State.errorEffects_codeBit (e : CmdError) :
    (s.errorEffects e).codeBit = if e = .emptyInput then [] else s.codeBit := by cases e <;> rfl
theorem State.errorEffects_streamLen (e : CmdError) :
    (s.errorEffects e).streamLen = if e = .symbolNotInTable ∨ e = .streamOverflow then 0 else s.streamLen := by cases e <;> rfl
theorem State.errorEffects_stream (e : CmdError) :
    (s.errorEffects e).stream = if e = .symbolNotInTable ∨ e = .streamOverflow then [] else s.stream := by cases e <;> rfl
theorem State.errorEffects_outLen (e : CmdError) :
    (s.errorEffects e).outLen = if e = .malformedStream ∨ e = .outputOverflow then 0 else s.outLen := by cases e <;> rfl
theorem State.errorEffects_out (e : CmdError) :
    (s.errorEffects e).out = if e = .malformedStream ∨ e = .outputOverflow then [] else s.out := by cases e <;> rfl

@[simp] theorem State.raise_params (e : CmdError) (info : Word) : (s.raise e info).params = (s.errorEffects e).params := rfl
@[simp] theorem State.raise_cmd (e : CmdError) (info : Word) : (s.raise e info).cmd = (s.errorEffects e).cmd := rfl
@[simp] theorem State.raise_cfg (e : CmdError) (info : Word) : (s.raise e info).cfg = (s.errorEffects e).cfg := rfl
@[simp] theorem State.raise_textLen (e : CmdError) (info : Word) : (s.raise e info).textLen = (s.errorEffects e).textLen := rfl
@[simp] theorem State.raise_streamLen (e : CmdError) (info : Word) : (s.raise e info).streamLen = (s.errorEffects e).streamLen := rfl
@[simp] theorem State.raise_outLen (e : CmdError) (info : Word) : (s.raise e info).outLen = (s.errorEffects e).outLen := rfl
@[simp] theorem State.raise_root (e : CmdError) (info : Word) : (s.raise e info).root = (s.errorEffects e).root := rfl
@[simp] theorem State.raise_nodeCnt (e : CmdError) (info : Word) : (s.raise e info).nodeCnt = (s.errorEffects e).nodeCnt := rfl
@[simp] theorem State.raise_nleaf (e : CmdError) (info : Word) : (s.raise e info).nleaf = (s.errorEffects e).nleaf := rfl
@[simp] theorem State.raise_text (e : CmdError) (info : Word) : (s.raise e info).text = (s.errorEffects e).text := rfl
@[simp] theorem State.raise_stream (e : CmdError) (info : Word) : (s.raise e info).stream = (s.errorEffects e).stream := rfl
@[simp] theorem State.raise_out (e : CmdError) (info : Word) : (s.raise e info).out = (s.errorEffects e).out := rfl
@[simp] theorem State.raise_freq (e : CmdError) (info : Word) : (s.raise e info).freq = (s.errorEffects e).freq := rfl
@[simp] theorem State.raise_node (e : CmdError) (info : Word) : (s.raise e info).node = (s.errorEffects e).node := rfl
@[simp] theorem State.raise_codeLen (e : CmdError) (info : Word) : (s.raise e info).codeLen = (s.errorEffects e).codeLen := rfl
@[simp] theorem State.raise_codeBit (e : CmdError) (info : Word) : (s.raise e info).codeBit = (s.errorEffects e).codeBit := rfl
@[simp] theorem State.raise_answer (e : CmdError) (info : Word) : (s.raise e info).answer = (s.errorEffects e).answer := rfl
@[simp] theorem State.raise_pending (e : CmdError) (info : Word) : (s.raise e info).pending = (s.errorEffects e).pending := rfl
@[simp] theorem State.raise_errInfo (e : CmdError) (info : Word) : (s.raise e info).errInfo = info := rfl
@[simp] theorem State.raise_draws (e : CmdError) (info : Word) : (s.raise e info).draws = s.draws + 1 := by cases e <;> rfl
@[simp] theorem State.raise_status (e : CmdError) (info : Word) :
    (s.raise e info).status = (s.errorEffects e).status.failed e := rfl

/-! The flags. -/

@[simp] theorem Status.issued_state (st : Status) : st.issued.state = .busy := rfl
@[simp] theorem Status.issued_treeValid (st : Status) : st.issued.treeValid = st.treeValid := rfl
@[simp] theorem Status.issued_tableValid (st : Status) : st.issued.tableValid = st.tableValid := rfl
@[simp] theorem Status.issued_sticky (st : Status) : st.issued.sticky = st.sticky := rfl
@[simp] theorem Status.issued_err (st : Status) : st.issued.err = st.err := rfl
@[simp] theorem Status.succeeded_state (st : Status) : st.succeeded.state = .done := rfl
@[simp] theorem Status.succeeded_treeValid (st : Status) : st.succeeded.treeValid = st.treeValid := rfl
@[simp] theorem Status.succeeded_tableValid (st : Status) : st.succeeded.tableValid = st.tableValid := rfl
@[simp] theorem Status.succeeded_sticky (st : Status) : st.succeeded.sticky = st.sticky := rfl
@[simp] theorem Status.succeeded_err (st : Status) : st.succeeded.err = none := rfl
@[simp] theorem Status.failed_state (st : Status) (e : CmdError) : (st.failed e).state = .done := rfl
@[simp] theorem Status.failed_treeValid (st : Status) (e : CmdError) : (st.failed e).treeValid = st.treeValid := rfl
@[simp] theorem Status.failed_tableValid (st : Status) (e : CmdError) : (st.failed e).tableValid = st.tableValid := rfl
@[simp] theorem Status.failed_sticky (st : Status) (e : CmdError) : (st.failed e).sticky = true := rfl
@[simp] theorem Status.failed_err (st : Status) (e : CmdError) : (st.failed e).err = some e := rfl
@[simp] theorem Status.treeBuilt_state (st : Status) : st.treeBuilt.state = st.state := rfl
@[simp] theorem Status.treeBuilt_treeValid (st : Status) : st.treeBuilt.treeValid = true := rfl
@[simp] theorem Status.treeBuilt_tableValid (st : Status) : st.treeBuilt.tableValid = false := rfl
@[simp] theorem Status.treeBuilt_sticky (st : Status) : st.treeBuilt.sticky = st.sticky := rfl
@[simp] theorem Status.treeBuilt_err (st : Status) : st.treeBuilt.err = st.err := rfl
@[simp] theorem Status.treeLost_state (st : Status) : st.treeLost.state = st.state := rfl
@[simp] theorem Status.treeLost_treeValid (st : Status) : st.treeLost.treeValid = false := rfl
@[simp] theorem Status.treeLost_tableValid (st : Status) : st.treeLost.tableValid = false := rfl
@[simp] theorem Status.treeLost_sticky (st : Status) : st.treeLost.sticky = st.sticky := rfl
@[simp] theorem Status.treeLost_err (st : Status) : st.treeLost.err = st.err := rfl
@[simp] theorem Status.tableBuilt_state (st : Status) : st.tableBuilt.state = st.state := rfl
@[simp] theorem Status.tableBuilt_treeValid (st : Status) : st.tableBuilt.treeValid = st.treeValid := rfl
@[simp] theorem Status.tableBuilt_tableValid (st : Status) : st.tableBuilt.tableValid = true := rfl
@[simp] theorem Status.tableBuilt_sticky (st : Status) : st.tableBuilt.sticky = st.sticky := rfl
@[simp] theorem Status.tableBuilt_err (st : Status) : st.tableBuilt.err = st.err := rfl
@[simp] theorem Status.cleared_state : Status.cleared.state = .idle := rfl
@[simp] theorem Status.cleared_treeValid : Status.cleared.treeValid = false := rfl
@[simp] theorem Status.cleared_tableValid : Status.cleared.tableValid = false := rfl
@[simp] theorem Status.cleared_sticky : Status.cleared.sticky = false := rfl
@[simp] theorem Status.cleared_err : Status.cleared.err = none := rfl

end Sys2Proof.Machine
end

