-- ==== Sys2Proof/Laws/Meanings.lean ====
section
/-! SUPPORT. Laws/Meanings.lean: one inversion lemma per meaning and per shared operation: everything it can do, said
once, so that later proofs cite it and do not unfold the meaning. -/

namespace Sys2Proof.Machine

variable {s t : State}

/-! ### Shared operations -/

theorem State.raise_failed (s : State) (e : CmdError) (info : Word) : Failed (s.raise e info) e info :=
  ⟨rfl, rfl, rfl, rfl⟩

theorem State.succeed_succeeded (s : State) : Succeeded s s.succeed := ⟨rfl, rfl, rfl, rfl⟩

theorem State.answerWith_keepsBlock (s : State) (w : Word) : KeepsBlock s (s.answerWith w) := by
  simp [KeepsBlock, KeepsText, KeepsStream, KeepsOut, KeepsTree, KeepsTable, KeepsStatus, KeepsControl]

theorem State.acknowledge_keepsBlock (s : State) : KeepsBlock s s.acknowledge := s.answerWith_keepsBlock _

theorem State.accessFault_keepsBlock (s : State) : KeepsBlock s s.accessFault := by
  simp [KeepsBlock, KeepsText, KeepsStream, KeepsOut, KeepsTree, KeepsTable, KeepsStatus, KeepsControl]

theorem State.busy_iff (s : State) : s.busy = true ↔ s.status.state = .busy := by simp [State.busy]

theorem State.busy_eq_false_iff (s : State) : s.busy = false ↔ s.status.state ≠ .busy := by simp [State.busy]

/-! ### The meanings -/

theorem execBuild_cases (h : execBuild s = .next t) :
    (s.textLen = 0 ∧ t = s.raise .emptyInput 0) ∨
    (s.textLen ≠ 0 ∧
      t = (s.treeWritten s.textCounts (buildNodes s.params s.cfg.legacyCd s.textCounts)).succeed) := by
  unfold execBuild at h
  split at h
  · rename_i h0; cases h; exact .inl ⟨h0, rfl⟩
  · rename_i h0; cases h; exact .inr ⟨h0, rfl⟩

theorem execGentab_cases (h : execGentab s = .next t) :
    (s.status.treeValid = false ∧ t = s.raise .noTree 0) ∨
    (s.status.treeValid = true ∧ t = (s.tableWritten s.codeTables).succeed) := by
  unfold execGentab at h
  split at h
  · rename_i h0; cases h; exact .inr ⟨h0, rfl⟩
  · rename_i h0; cases h; exact .inl ⟨by simpa using h0, rfl⟩

theorem execEncode_cases (h : execEncode s = .next t) :
    (s.status.tableValid = false ∧ t = s.raise .noTable 0) ∨
    (s.status.tableValid = true ∧ ∃ bits, s.encoding = .ok bits ∧ t = (s.streamWritten bits).succeed) ∨
    (s.status.tableValid = true ∧ ∃ e k, s.encoding = .error (e, k) ∧ t = s.raise e (BitVec.ofNat 32 k)) := by
  unfold execEncode at h
  split at h
  · rename_i h0
    split at h
    · rename_i bits hb; cases h; exact .inr (.inl ⟨h0, bits, hb, rfl⟩)
    · rename_i e k hb; cases h; exact .inr (.inr ⟨h0, e, k, hb, rfl⟩)
  · rename_i h0; cases h; exact .inl ⟨by simpa using h0, rfl⟩

theorem execDecode_cases (h : execDecode s = .next t) :
    (s.status.treeValid = false ∧ t = s.raise .noTree 0) ∨
    (s.status.treeValid = true ∧ ∃ xs, s.decoding = .ok xs ∧ t = (s.outWritten xs).succeed) ∨
    (s.status.treeValid = true ∧ ∃ e k, s.decoding = .error (e, k) ∧ t = s.raise e (BitVec.ofNat 32 k)) := by
  unfold execDecode at h
  split at h
  · rename_i h0
    split at h
    · rename_i xs hb; cases h; exact .inr (.inl ⟨h0, xs, hb, rfl⟩)
    · rename_i e k hb; cases h; exact .inr (.inr ⟨h0, e, k, hb, rfl⟩)
  · rename_i h0; cases h; exact .inl ⟨by simpa using h0, rfl⟩

theorem execClear_cases (h : execClear s = .next t) : t = s.clearNow.drawn := by cases h; rfl

/-- The errors ENCODE's loop can end in. -/
theorem encodeLoop_error {codeOf : Symbol → List Bit} {cap k pos : Nat} {text : List Symbol} {e : CmdError} {i : Nat}
    (h : encodeLoop codeOf cap k pos text = .error (e, i)) : e = .symbolNotInTable ∨ e = .streamOverflow := by
  induction text generalizing k pos with
  | nil => simp [encodeLoop] at h
  | cons x rest ih =>
    unfold encodeLoop at h
    split at h
    · cases h; exact .inl rfl
    · split at h
      · cases h; exact .inr rfl
      · split at h
        · cases h
        · rename_i e' he; cases h; exact ih he

theorem decodeDegenerate_error {x : Symbol} {cap k n : Nat} {bits : List Bit} {e : CmdError} {i : Nat}
    (h : decodeDegenerate x cap k n bits = .error (e, i)) : e = .outputOverflow := by
  induction bits generalizing k n with
  | nil => simp [decodeDegenerate] at h
  | cons b bits ih =>
    unfold decodeDegenerate at h
    split at h
    · cases h; rfl
    · split at h
      · cases h
      · rename_i e' he; cases h; exact ih he

theorem decodeLoop_error {node : Nat → Node} {root cap k cur start n : Nat} {bits : List Bit} {e : CmdError} {i : Nat}
    (h : decodeLoop node root cap k cur start n bits = .error (e, i)) :
    e = .malformedStream ∨ e = .outputOverflow := by
  induction bits generalizing k cur start n with
  | nil =>
    unfold decodeLoop at h
    split at h <;> cases h
    exact .inl rfl
  | cons b bits ih =>
    unfold decodeLoop at h
    split at h
    · split at h
      · cases h; exact .inr rfl
      · split at h
        · cases h
        · rename_i e' he; cases h; exact ih he
    · exact ih h

/-- The data errors of ENCODE (42_encode.md R150). -/
theorem State.encoding_error {e : CmdError} {i : Nat} (h : s.encoding = .error (e, i)) :
    e = .symbolNotInTable ∨ e = .streamOverflow := encodeLoop_error h

/-- The data errors of DECODE (43_decode.md R160). -/
theorem State.decoding_error {e : CmdError} {i : Nat} (h : s.decoding = .error (e, i)) :
    e = .malformedStream ∨ e = .outputOverflow := by
  unfold State.decoding at h
  split at h
  · exact .inr (decodeDegenerate_error h)
  · exact decodeLoop_error h

theorem execRd_cases {space : Space} {index : Nat} (h : execRd space index s = .next t) :
    t = s.accessFault ∨
    ((s.status.state ≠ .busy ∨ (space = .reg ∧ index = 1)) ∧ legalIndex s.params space index = true ∧
      t = s.answerWith (s.element space index)) := by
  unfold execRd at h
  split at h
  · cases h; exact .inl rfl
  · rename_i h0
    split at h
    · cases h; exact .inl rfl
    · rename_i h1
      cases h
      refine .inr ⟨?_, by simpa using h1, rfl⟩
      by_cases hb : s.status.state = .busy
      · right; simpa [State.busy, hb] using h0
      · exact .inl hb

theorem execWr_cases {space : Space} {index : Nat} {wdata : Word} (h : execWr space index wdata s = .next t) :
    t = s.accessFault ∨
    (s.status.state ≠ .busy ∧ legalIndex s.params space index = true ∧ hostWritable space index = true ∧
      t = s.writeElement space index wdata) := by
  unfold execWr at h
  split at h
  · cases h; exact .inl rfl
  · rename_i h0
    split at h
    · cases h; exact .inl rfl
    · rename_i h1
      split at h
      · cases h; exact .inl rfl
      · rename_i h2
        cases h
        exact .inr ⟨by simpa [State.busy] using h0, by simpa using h1, by simpa using h2, rfl⟩

/-- What a write of a register can do. -/
theorem State.writeReg_cases (s : State) (r : Reg) (w : Word) :
    s.writeReg r w = s.accessFault ∨
    (r = .cmd ∧ s.writeReg r w = (s.issue w).acknowledge) ∨
    (r = .cfg ∧ s.writeReg r w = { s with cfg := Cfg.ofWord w }.acknowledge) ∨
    (r = .textLen ∧ w.toNat ≤ s.params.maxText ∧ s.writeReg r w = { s with textLen := w }.acknowledge) ∨
    (r = .streamLen ∧ w.toNat ≤ s.params.maxStream ∧ s.writeReg r w = { s with streamLen := w }.acknowledge) := by
  cases r
  case cmd => exact .inr (.inl ⟨rfl, rfl⟩)
  case cfg => exact .inr (.inr (.inl ⟨rfl, rfl⟩))
  case textLen =>
    unfold State.writeReg
    by_cases h : w.toNat > s.params.maxText
    · left; simp only [h, if_true]
    · right; right; right; left; exact ⟨rfl, by omega, by simp only [h, if_false]⟩
  case streamLen =>
    unfold State.writeReg
    by_cases h : w.toNat > s.params.maxStream
    · left; simp only [h, if_true]
    · right; right; right; right; exact ⟨rfl, by omega, by simp only [h, if_false]⟩
  all_goals exact .inl rfl

/-- What a write of an element can do. -/
theorem State.writeElement_cases (s : State) (space : Space) (index : Nat) (w : Word) :
    s.writeElement space index w = s.accessFault ∨
    (∃ r, space = .reg ∧ Reg.ofNumber? index = some r ∧ s.writeElement space index w = s.writeReg r w) ∨
    (space = .text ∧ s.writeElement space index w =
      { s with text := s.text.write index (w.toNat % 2 ^ s.params.symW) }.acknowledge) ∨
    (space = .stream ∧ s.writeElement space index w =
      { s with stream := s.stream.write index (w.getLsbD 0) }.acknowledge) := by
  cases space
  case reg =>
    unfold State.writeElement
    cases h : Reg.ofNumber? index with
    | none => exact .inl rfl
    | some r => exact .inr (.inl ⟨r, rfl, rfl, rfl⟩)
  case text => exact .inr (.inr (.inl ⟨rfl, rfl⟩))
  case stream => exact .inr (.inr (.inr ⟨rfl, rfl⟩))
  all_goals exact .inl rfl

/-! ### One step -/

/-- The core's completion step: run the decoded command, or report the illegal word; nothing if not BUSY. -/
theorem State.complete_cases (s : State) :
    (s.status.state ≠ .busy ∧ s.complete = .settle s) ∨
    (s.status.state = .busy ∧ ∃ i, decodeCommand s.cmd = .ok i ∧ s.complete = .run i s) ∨
    (s.status.state = .busy ∧ ∃ w, decodeCommand s.cmd = .error (.illegalCommand w) ∧
      s.complete = .settle (s.raise .illegalCommand w)) := by
  unfold State.complete
  by_cases h : s.status.state = .busy
  · have hb : s.busy = true := by simp [State.busy, h]
    rw [if_pos hb]
    split
    · rename_i i hi; exact .inr (.inl ⟨h, i, hi, rfl⟩)
    · rename_i w hw; exact .inr (.inr ⟨h, w, hw, rfl⟩)
  · have hb : s.busy = false := by simp [State.busy, h]
    rw [hb]
    exact .inl ⟨h, rfl⟩

/-- Everything a step can do, by the event it takes: `r` is the state without that event. -/
theorem step_cases (h : step s = .next t) :
    ∃ r : State, ∃ events, r = { s with pending := events } ∧
      ((∃ w, s.pending = .transaction w :: events ∧ exec (decodeTransaction w) r = .next t) ∨
       (s.pending = .reset :: events ∧ t = r.resetNow) ∨
       ((s.pending = [] ∧ events = [] ∨ s.pending = .completion :: events) ∧
         ((s.status.state ≠ .busy ∧ t = r) ∨
          (s.status.state = .busy ∧ ∃ i, decodeCommand s.cmd = .ok i ∧ exec i r = .next t) ∨
          (s.status.state = .busy ∧ ∃ w, decodeCommand s.cmd = .error (.illegalCommand w) ∧
            t = r.raise .illegalCommand w)))) := by
  unfold step State.nextAction at h
  rcases hp : s.pending with _ | ⟨⟨w⟩ | _ | _, rest⟩
  · refine ⟨{ s with pending := [] }, [], rfl, .inr (.inr ⟨.inl ⟨rfl, rfl⟩, ?_⟩)⟩
    have hs : ({ s with pending := [] } : State) = s := by cases s; simp_all
    rw [hs]
    simp only [hp] at h
    rcases s.complete_cases with ⟨h1, h2⟩ | ⟨h1, i, h2, h3⟩ | ⟨h1, w, h2, h3⟩
    · rw [h2] at h; cases h; exact .inl ⟨h1, rfl⟩
    · rw [h3] at h; exact .inr (.inl ⟨h1, i, h2, h⟩)
    · rw [h3] at h; cases h; exact .inr (.inr ⟨h1, w, h2, rfl⟩)
  · simp only [hp] at h
    exact ⟨_, rest, rfl, .inl ⟨w, rfl, h⟩⟩
  · refine ⟨{ s with pending := rest }, rest, rfl, .inr (.inr ⟨.inr rfl, ?_⟩)⟩
    simp only [hp] at h
    rcases ({ s with pending := rest } : State).complete_cases with ⟨h1, h2⟩ | ⟨h1, i, h2, h3⟩ | ⟨h1, w, h2, h3⟩
    · rw [h2] at h; cases h; exact .inl ⟨h1, rfl⟩
    · rw [h3] at h; exact .inr (.inl ⟨h1, i, h2, h⟩)
    · rw [h3] at h; cases h; exact .inr (.inr ⟨h1, w, h2, rfl⟩)
  · simp only [hp] at h
    cases h
    exact ⟨_, rest, rfl, .inr (.inl ⟨rfl, rfl⟩)⟩

/-! ### The walk of GENTAB is the abstract tree's table -/

/-- `Walk` on the NODE table lists the codes of the tree it represents (41_gentab.md R140, R141). -/
theorem walk_eq_codes (node : Nat → Node) (depth i : Nat) (path : List Bit) :
    walk node depth i path = (treeOf node depth i).codes path := by
  induction depth generalizing i path with
  | zero => rfl
  | succ d ih =>
    unfold walk treeOf
    cases (node i).tag with
    | leaf => rfl
    | internal => simp [Tree.codes, ih]

end Sys2Proof.Machine
end

