-- ==== Sys2Proof/Laws/PerInstr.lean ====
section
/-! SUPPORT. Laws/PerInstr.lean: families of statements about the instructions as syntax, one lemma per constructor.
`TableRow`: the encoded word agrees with the instruction's row of spec/opcode_table.json in every bit its mask
selects. -/

namespace Sys2Proof.Laws.TableRow

/-- The row's `match` and `mask` (spec/opcode_table.json; 30_encoding.md R102): the mask of a command is all 32
bits, that of a transaction the `we` bit alone. -/
def Statement (i : Instr) : Prop :=
  match i, encode i with
  | .build, .cmd w => w &&& 0xFFFFFFFF#32 = 0x00000001#32
  | .gentab, .cmd w => w &&& 0xFFFFFFFF#32 = 0x00000002#32
  | .encode, .cmd w => w &&& 0xFFFFFFFF#32 = 0x00000003#32
  | .decode, .cmd w => w &&& 0xFFFFFFFF#32 = 0x00000004#32
  | .clear, .cmd w => w &&& 0xFFFFFFFF#32 = 0x00000005#32
  | .rd _ _, .host w => w &&& 0x80000000000000000#68 = 0x00000000000000000#68
  | .wr _ _ _, .host w => w &&& 0x80000000000000000#68 = 0x80000000000000000#68
  | _, _ => False

/-- The `we` bit is bit 67. -/
theorem we_getLsbD (we : Bool) (space : Space) (index : Nat) (wdata : Word) :
    (transactionWord we space index wdata).getLsbD 67 = we := by
  have h : ∀ (a : BitVec 1) (b : BitVec 3) (c d : BitVec 32), (a ++ b ++ c ++ d).getLsbD 67 = a.getLsbD 0 := by
    intro a b c d
    rw [BitVec.getLsbD_append, BitVec.getLsbD_append, BitVec.getLsbD_append]
    rfl
  exact (h _ _ _ _).trans (by cases we <;> rfl)

/-- Selecting bit 67 of a word leaves its value there. -/
theorem and_weMask (w : TransactionWord) :
    w &&& 0x80000000000000000#68 = if w.getLsbD 67 then 0x80000000000000000#68 else 0#68 := by
  have hm : (0x80000000000000000#68) = BitVec.twoPow 68 67 := by decide
  rw [hm, BitVec.and_twoPow]

theorem build : Statement .build := by simp [Statement, Sys2Proof.encode]
theorem gentab : Statement .gentab := by simp [Statement, Sys2Proof.encode]
theorem encode : Statement .encode := by simp [Statement, Sys2Proof.encode]
theorem decode : Statement .decode := by simp [Statement, Sys2Proof.encode]
theorem clear : Statement .clear := by simp [Statement, Sys2Proof.encode]
theorem rd (space : Space) (index : Nat) : Statement (.rd space index) := by
  simp only [Statement, Sys2Proof.encode, and_weMask, we_getLsbD, Bool.false_eq_true, if_false]
theorem wr (space : Space) (index : Nat) (wdata : Word) : Statement (.wr space index wdata) := by
  simp only [Statement, Sys2Proof.encode, and_weMask, we_getLsbD, if_true]

end Sys2Proof.Laws.TableRow
end

