-- ==== Sys2Proof/Tests/Slice0.lean ====
section
/-! SUPPORT. Tests/Slice0.lean: the checks of WellFormed, written-out words, one-step vectors of 95_test_vectors.md on a
small alphabet (the letters mapped in order onto 0, 1, 2, ...; a, A = 0 and C, D = 2, 3), and for each statement with
hypotheses a state and operands that meet them (`test_witness_<statement>`). -/

-- One theorem at a time: checked all at once, they need more threads than the check's memory limit allows.
set_option Elab.async false

namespace Sys2Proof.Tests

open Sys2Proof.Machine

/-! ### WellFormed: each check refuses an ill-formed term -/

theorem test_wellFormed_rd_index : Instr.wellFormed (.rd .text (2 ^ 32)) = false := by decide
theorem test_wellFormed_wr_index : Instr.wellFormed (.wr .reg (2 ^ 32) 0) = false := by decide
theorem test_params_symW_low : Params.wellFormed { Params.recommended with symW := 0, legacySymL := 0, legacySymR := 1 } = false := by
  decide
theorem test_params_maxText_low : Params.wellFormed { Params.recommended with maxText := 0 } = false := by decide
theorem test_params_maxText_count : Params.wellFormed { Params.recommended with wW := 8, maxText := 256 } = false := by
  decide
theorem test_params_maxStream_low : Params.wellFormed { Params.recommended with maxStream := 0 } = false := by decide
theorem test_params_wW : Params.wellFormed { Params.recommended with wW := 33 } = false := by decide
theorem test_params_maxText_word : Params.wellFormed { Params.recommended with maxText := 2 ^ 32 } = false := by decide
theorem test_params_maxStream_word : Params.wellFormed { Params.recommended with maxStream := 2 ^ 32 } = false := by
  decide
theorem test_params_symW_high : Params.wellFormed { Params.recommended with symW := 16 } = false := by decide
theorem test_params_legacy_equal : Params.wellFormed { Params.recommended with legacySymR := 0x43 } = false := by decide
theorem test_params_legacyL : Params.wellFormed { Params.recommended with legacySymL := 256 } = false := by decide
theorem test_params_legacyR : Params.wellFormed { Params.recommended with legacySymR := 256 } = false := by decide

/-! ### Decoding: words written out from 30_encoding.md R91, R92 -/

/-- BUILD, GENTAB, ENCODE, DECODE, CLEAR: bits 31:4 zero, OP 1 to 5. -/
theorem test_decode_commands :
    [0b00000000000000000000000000000001#32, 0b00000000000000000000000000000010#32,
      0b00000000000000000000000000000011#32, 0b00000000000000000000000000000100#32,
      0b00000000000000000000000000000101#32].map (fun w => (decodeCommand w).toOption) =
    [some .build, some .gentab, some .encode, some .decode, some .clear] := by decide

/-- The illegal words of vectors B5. -/
theorem test_decode_illegal :
    [0x00000000#32, 0x00000006#32, 0x00000011#32, 0x80000003#32].map (fun w => (decodeCommand w).toOption) =
    [none, none, none, none] := by decide

/-- `RD NODE[65]`: we 0, space 5, index 65 (the write data is ignored). -/
theorem test_decode_rd : decodeTransaction
    (0b0#1 ++ 0b101#3 ++ 0b00000000000000000000000001000001#32 ++ 0b11111111111111111111111111111111#32) =
    .rd .node 65 := by decide

/-- P1 `WR TEXT_LEN, 11`: we 1, space 0, index 3, wdata 11. -/
theorem test_decode_wr : decodeTransaction
    (0b1#1 ++ 0b000#3 ++ 0b00000000000000000000000000000011#32 ++ 0b00000000000000000000000000001011#32) =
    .wr .reg 3 11 := by decide

/-- The eight space ids (20_memory.md R61). -/
theorem test_decode_spaces :
    [0x0#3, 0x1#3, 0x2#3, 0x3#3, 0x4#3, 0x5#3, 0x6#3, 0x7#3].map Space.ofId =
    [.reg, .text, .stream, .out, .freq, .node, .codeLen, .codeBit] := by decide

theorem test_decodeTableWord :
    [(32, 1), (32, 5), (32, 6), (72, 0x80000000000000000), (72, 0), (72, 2 ^ 68)].map
      (fun e => decodeTableWord e.1 e.2) =
    [some .build, some .clear, none, some (.wr .reg 0 0), some (.rd .reg 0), none] := by decide

/-! ### Small states -/

/-- A small block: `symW` bits a symbol, 11 symbols of text, 24 bits of stream, legacy symbols 2 and 3. -/
def small (symW : Nat) : Params :=
  { symW, wW := 8, maxText := 11, maxStream := 24, legacySymL := 2, legacySymR := 3 }

/-- The small block after reset. -/
def start (symW : Nat) : State := { State.reset with params := small symW }

/-- A text in TEXT. -/
def withText (s : State) (xs : List Symbol) : State :=
  { s with text := Memory.ofList xs, textLen := BitVec.ofNat 32 xs.length }

/-- A stream in STREAM, written as 0s and 1s. -/
def withStream (s : State) (bits : List Nat) : State :=
  { s with stream := Memory.ofList (bits.map (· == 1)), streamLen := BitVec.ofNat 32 bits.length }

/-- CFG.LEGACY_CD = 1. -/
def withLegacy (s : State) : State := { s with cfg := { legacyCd := true } }

/-- A command word in flight. -/
def inFlight (s : State) (w : Word) : State := s.issue w

/-- The state a step or an instruction goes to. -/
def nextOf (d : State) : Host.Outcome State Fault Refusal → State
  | .next t => t
  | .fault _ => d
  | .refused _ => d

def isNext : Host.Outcome State Fault Refusal → Bool
  | .next _ => true
  | .fault _ => false
  | .refused _ => false

def after (i : Instr) (s : State) : State := nextOf s (exec i s)
def stepped (s : State) : State := nextOf s (step s)

theorem eq_next (d : State) (o : Host.Outcome State Fault Refusal) (h : isNext o = true) : o = .next (nextOf d o) := by
  cases o with
  | next t => rfl
  | fault r => cases h
  | refused r => cases h

def treeOfText (symW : Nat) (xs : List Symbol) : State := after .build (withText (start symW) xs)
def tableOfText (symW : Nat) (xs : List Symbol) : State := after .gentab (treeOfText symW xs)

/-- What STREAM holds, as 0s and 1s. -/
def streamOf (s : State) : List (Option Nat) := (List.range s.streamLen.toNat).map fun k => (s.stream.read k).map Bool.toNat
def outOf (s : State) : List (Option Symbol) := (List.range s.outLen.toNat).map fun k => s.out.read k
def codesOf (s : State) (n : Nat) : List (List Nat) := (List.range n).map fun x => (s.codeOf x).map Bool.toNat

/-- "abcc", "CCCCDDDDAB", "aaaa", "abracadabra" (with r = 4). -/
def abcc : List Symbol := [0, 1, 2, 2]
def ccccddddab : List Symbol := [2, 2, 2, 2, 3, 3, 3, 3, 0, 1]
def aaaa : List Symbol := [0, 0, 0, 0]
def abracadabra : List Symbol := [0, 1, 4, 0, 2, 0, 3, 0, 1, 4, 0]

/-! ### One-step vectors -/

/-- V6. -/
theorem test_build_abracadabra :
    (treeOfText 3 abracadabra).status.word = 0x00000006 ∧ (treeOfText 3 abracadabra).root = 8 ∧
    (treeOfText 3 abracadabra).nodeCnt = 9 ∧ (treeOfText 3 abracadabra).nleaf = 5 ∧
    (treeOfText 3 abracadabra).node = [(0, leafNode 5 0), (1, leafNode 2 1), (2, leafNode 1 2), (3, leafNode 1 3),
      (4, leafNode 2 4), (5, internalNode 2 2 3), (6, internalNode 4 1 4), (7, internalNode 6 5 6),
      (8, internalNode 11 0 7)] := by decide +kernel

/-- V12 with CFG = 1: the premerge comes first and takes slot 4. -/
theorem test_build_legacy :
    ((after .build (withLegacy (withText (start 2) ccccddddab))).node.drop 4) =
      [(4, internalNode 8 2 3), (5, internalNode 2 0 1), (6, internalNode 10 5 4)] := by decide +kernel

/-- V12 with CFG = 0: 'A' "100", 'B' "101", 'C' "11", 'D' "0". -/
theorem test_gentab_codes :
    codesOf (tableOfText 2 ccccddddab) 4 = [[1, 0, 0], [1, 0, 1], [1, 1], [0]] ∧
    (tableOfText 2 ccccddddab).status.word = 0x0000000E := by decide +kernel

/-- V8: the one code "0"; every other CODELEN is 0. -/
theorem test_gentab_degenerate :
    (tableOfText 2 aaaa).codeLen = [(0, 1), (1, 0), (2, 0), (3, 0)] ∧ (tableOfText 2 aaaa).codeBit = [(0, false)] := by
  decide +kernel

/-- V6 with the text "rad" (B3). -/
theorem test_encode_rad :
    streamOf (after .encode (withText (tableOfText 3 abracadabra) [4, 0, 3])) =
      [some 1, some 1, some 1, some 0, some 1, some 0, some 1] := by decide +kernel

/-- V6 with the text "abz" (B3): SymbolNotInTable. -/
theorem test_encode_absent :
    (after .encode (withText (tableOfText 3 abracadabra) [0, 1, 7])).status.word = 0x0000021E ∧
    (after .encode (withText (tableOfText 3 abracadabra) [0, 1, 7])).errInfo = 2 ∧
    (after .encode (withText (tableOfText 3 abracadabra) [0, 1, 7])).streamLen = 0 := by decide +kernel

/-- V16 row 9: "1101110" gives "bra". -/
theorem test_decode_bra :
    outOf (after .decode (withStream (treeOfText 3 abracadabra) [1, 1, 0, 1, 1, 1, 0])) =
      [some 1, some 4, some 0] := by decide +kernel

/-- V16 row 4: "01101" is malformed at the bit 4 where its last code starts. -/
theorem test_decode_malformed :
    (after .decode (withStream (treeOfText 3 abracadabra) [0, 1, 1, 0, 1])).status.word = 0x00000316 ∧
    (after .decode (withStream (treeOfText 3 abracadabra) [0, 1, 1, 0, 1])).errInfo = 4 ∧
    (after .decode (withStream (treeOfText 3 abracadabra) [0, 1, 1, 0, 1])).outLen = 0 := by decide +kernel

/-- B5: CLEAR after an error, with CFG = 1. -/
theorem test_clear :
    (after .clear (withLegacy (after .encode (treeOfText 2 abcc)))).status.word = 0x00000000 ∧
    (after .clear (withLegacy (after .encode (treeOfText 2 abcc)))).textLen = 0 ∧
    (after .clear (withLegacy (after .encode (treeOfText 2 abcc)))).cfg.word = 1 ∧
    (after .clear (withLegacy (after .encode (treeOfText 2 abcc)))).text = Memory.ofList abcc := by decide +kernel

/-- V6: `RD NODE[65]`, `[67]`, `[68]` answer 11, 0, 7. -/
theorem test_rd_node :
    [65, 67, 68].map (fun j => (after (.rd .node j) (treeOfText 3 abracadabra)).answer) =
      [some { fault := false, rdata := 11 }, some { fault := false, rdata := 0 },
        some { fault := false, rdata := 7 }] := by decide +kernel

/-- B6: REG[10], NODE[5] and NODE[4088] do not exist; NODE[4084] and CODEBIT[65535] do. -/
theorem test_rd_faults :
    [(Space.reg, 10), (.node, 5), (.node, 4088), (.codeBit, 65536), (.node, 4084), (.codeBit, 65535)].map
      (fun e => (after (.rd e.1 e.2) State.reset).answer.map Answer.fault) =
    [some true, some true, some true, some true, some false, some false] := by decide +kernel

/-- B6: the low bits of `wdata` are kept. -/
theorem test_wr_width :
    (after (.wr .text 0 0x161) State.reset).text = [(0, 0x61)] ∧
    (after (.wr .stream 5 3) State.reset).stream = [(5, true)] ∧
    (after (.wr .reg 2 0xFFFFFFFF) State.reset).cfg.word = 0x00000001 := by decide +kernel

/-- B6: what a WR may not do. -/
theorem test_wr_faults :
    [(Space.reg, 3, 4097#32), (.reg, 4, 32769#32), (.text, 4096, 0#32), (.out, 0, 0#32), (.freq, 0, 1#32),
      (.reg, 1, 0#32), (.reg, 6, 0#32), (.reg, 3, 4096#32)].map
      (fun e => (after (.wr e.1 e.2.1 e.2.2) State.reset).answer.map Answer.fault) =
    [some true, some true, some true, some true, some true, some true, some true, some false] := by decide +kernel

/-- B5: an illegal word is reported when it completes. -/
theorem test_illegal_completes :
    (stepped (inFlight (tableOfText 2 abcc) 0x80000003)).status.word = 0x0000041E ∧
    (stepped (inFlight (tableOfText 2 abcc) 0x80000003)).errInfo = 0x80000003 := by decide +kernel

/-! ### Witnesses: encoding and one step -/

theorem test_witness_DecodeInvertsEncode :
    Instr.wellFormed (.rd .node (2 ^ 32 - 1)) = true ∧ Instr.wellFormed (.wr .codeBit 0 0xFFFFFFFF) = true := by decide

theorem test_witness_EncodeInvertsDecode :
    decode (.cmd 5) = .ok .clear ∧ decode (.host 0x00000000100000007#68) = .ok (.rd .reg 1) ∧
    decode (.host 0x80000000300000007#68) = .ok (.wr .reg 3 7) := by decide

theorem test_witness_CommandMapIsTheFiveWords_illegal :
    (∀ i, decodeCommand 0 ≠ .ok i) ∧ (∀ i, decodeCommand 6 ≠ .ok i) ∧ ∀ i, decodeCommand 0x00000011 ≠ .ok i := by
  refine ⟨fun i h => ?_, fun i h => ?_, fun i h => ?_⟩ <;> cases h

theorem test_witness_StepRunsTheDecodedInstruction :
    ({ start 2 with pending := [.transaction 0x00000000100000000#68] } : State).pending =
      .transaction 0x00000000100000000#68 :: [] ∧
    (inFlight (start 2) 5).status.state = .busy ∧ decodeCommand (inFlight (start 2) 5).cmd = .ok .clear ∧
    (inFlight (start 2) 5).pending = [] ∧
    ({ inFlight (start 2) 5 with pending := [.completion, .reset] } : State).pending = .completion :: [.reset] ∧
    decodeCommand (inFlight (start 2) 6).cmd = .error (.illegalCommand 6) ∧
    (start 2).status.state ≠ .busy ∧ (start 2).pending = [] ∧
    ({ start 2 with pending := [.completion] } : State).pending = .completion :: [] ∧
    ({ start 2 with pending := [.reset] } : State).pending = .reset :: [] := by decide

theorem test_witness_PlacedWordRunsNext :
    decodeTableWord 32 4 = some .decode ∧ decodeTableWord 72 0x80000000000000001 = some (.wr .reg 0 1) := by decide

/-- A reset, an issue of BUILD, and a block at rest. -/
def resetting : State := { inFlight (start 2) 1 with pending := [.reset] }
def issuing : State := { start 2 with pending := [.transaction 0x80000000000000001#68] }

/-- The clauses: a reset, an issue, the completion of CLEAR, of another command, and none of these. -/
theorem test_witness_SequencingStateMachine :
    (∃ t, resetting.resets ∧ step resetting = .next t) ∧
    (∃ t, issuing.issues 1 ∧ step issuing = .next t) ∧
    (∃ t, (inFlight (start 2) 5).completes ∧ (inFlight (start 2) 5).cmd = 0x00000005 ∧
      step (inFlight (start 2) 5) = .next t) ∧
    (∃ t, (inFlight (start 2) 0).completes ∧ (inFlight (start 2) 0).cmd ≠ 0x00000005 ∧
      step (inFlight (start 2) 0) = .next t) ∧
    ∃ t, ¬ (start 2).resets ∧ (¬ ∃ w, (start 2).issues w) ∧ ¬ (start 2).completes ∧ step (start 2) = .next t := by
  refine ⟨⟨_, ⟨_, rfl⟩, eq_next State.reset _ (by decide)⟩,
    ⟨_, ⟨by decide, _, ⟨_, rfl⟩, by decide⟩, eq_next State.reset _ (by decide)⟩,
    ⟨_, ⟨rfl, .inl rfl⟩, rfl, eq_next State.reset _ (by decide)⟩,
    ⟨_, ⟨rfl, .inl rfl⟩, by decide, eq_next State.reset _ (by decide)⟩,
    ⟨_, ?_, ?_, ?_, eq_next State.reset _ (by decide)⟩⟩
  · rintro ⟨_, h⟩
    cases h
  · rintro ⟨_, _, _, ⟨_, h⟩, _⟩
    cases h
  · rintro ⟨h, _⟩
    cases h

theorem test_witness_BusyEndsWithinPendingEvents :
    (inFlight (start 2) 3).status.state = .busy ∧
    ({ inFlight (start 2) 3 with pending := [.transaction 0, .completion] } : State).status.state = .busy := by decide

theorem test_witness_BusyAdmitsOnlyStatusReads :
    (inFlight (start 2) 3).status.state = .busy ∧ ¬ (Space.reg = .reg ∧ (0 : Nat) = 1) ∧
    ¬ (Space.reg = .reg ∧ (2 : Nat) = 1) ∧ ¬ (Space.text = .reg ∧ (1 : Nat) = 1) := by decide

theorem test_witness_IllegalCommandIsReported :
    (inFlight (start 2) 0).completes ∧ (inFlight (start 2) 6).completes ∧
    (inFlight (start 2) 0).cmd ∉ [0x00000001#32, 0x00000002#32, 0x00000003#32, 0x00000004#32, 0x00000005#32] ∧
    (inFlight (start 2) 6).cmd ∉ [0x00000001#32, 0x00000002#32, 0x00000003#32, 0x00000004#32, 0x00000005#32] :=
  ⟨⟨rfl, .inl rfl⟩, ⟨rfl, .inl rfl⟩, by decide, by decide⟩

/-! ### Witnesses: reset and invariants -/

theorem start_atReset : (start 2).AtReset :=
  ⟨rfl, by decide, rfl, by decide, ⟨rfl, rfl, rfl⟩, ⟨rfl, rfl, rfl⟩, rfl, fun _ => ⟨rfl, rfl, rfl⟩,
    fun _ => ⟨rfl, rfl, rfl, rfl⟩⟩

theorem test_witness_ResetStateIsAllZero :
    State.resets { treeOfText 2 abcc with pending := [.reset] } ∧ (start 2).AtReset ∧ (start 2).pending = [] :=
  ⟨⟨_, rfl⟩, start_atReset, rfl⟩

theorem test_witness_InvAtReset :
    (small 2).wellFormed = true ∧
    Params.wellFormed
      { symW := 15, wW := 32, maxText := 2 ^ 32 - 1, maxStream := 2 ^ 32 - 1, legacySymL := 0, legacySymR := 2 ^ 15 - 1 } =
      true ∧
    Params.wellFormed { symW := 1, wW := 1, maxText := 1, maxStream := 1, legacySymL := 1, legacySymR := 0 } = true := by
  decide

/-- A state with a tree and a table, a stream and an output: "abcc". -/
def full : State := after .decode (after .encode (tableOfText 2 abcc))

theorem full_holdsTree : full.HoldsTree := by constructor <;> decide +kernel
theorem full_holdsTable : full.HoldsTable := by constructor <;> decide +kernel
theorem full_canonical : full.Canonical := by constructor <;> decide +kernel
theorem full_inRange : full.InRange := by constructor <;> decide +kernel
theorem full_lengthsFit : full.LengthsFit := by constructor <;> decide +kernel
theorem full_flagsAgree : full.FlagsAgree := by constructor <;> decide +kernel
theorem full_valid : full.status.treeValid = true ∧ full.status.tableValid = true := by decide +kernel

theorem full_inv : full.Inv where
  params := by decide +kernel
  canonical := full_canonical
  inRange := full_inRange
  lengths := full_lengthsFit
  flags := full_flagsAgree
  tree _ := full_holdsTree
  noTree h := by simp [full_valid.1] at h
  table _ := full_holdsTable
  noTable h := by simp [full_valid.2] at h

/-- The same state with a command in flight, about to be completed. -/
def fullBusy : State := inFlight full 1

theorem test_witness_StepKeepsInv : ∃ t, full.Inv ∧ step full = .next t :=
  ⟨_, full_inv, eq_next State.reset _ (by decide +kernel)⟩

theorem test_witness_StepKeepsMemoriesCanonical :
    (∃ t, full.Canonical ∧ step full = .next t) ∧ ∃ t, fullBusy.Canonical ∧ step fullBusy = .next t := by
  have busy : fullBusy.Canonical := { full_canonical with }
  exact ⟨⟨_, full_canonical, eq_next State.reset _ (by decide +kernel)⟩,
    ⟨_, busy, eq_next State.reset _ (by decide +kernel)⟩⟩

theorem test_witness_ParamsNeverChange : ∃ t, step fullBusy = .next t :=
  ⟨_, eq_next State.reset _ (by decide +kernel)⟩

/-- A run reaches only reachable states. -/
theorem reachable_run (k : Nat) : ∀ s t : State, Reachable s → core.run k s = .next t → Reachable t := by
  induction k with
  | zero =>
    intro s t hs h
    cases h
    exact hs
  | succ k ih =>
    intro s t hs h
    simp only [Host.Core.run] at h
    split at h
    · rename_i s' hs'
      exact ih s' t (.steps s s' hs hs') h
    · cases h
    · cases h

/-- TEXT[0] ← 0, TEXT_LEN ← 1, BUILD, GENTAB (the words of 30_encoding.md R91, R92). -/
def bringUp : State :=
  { start 2 with pending := [.transaction 0x90000000000000000#68, .transaction 0x80000000300000001#68,
      .transaction 0x80000000000000001#68, .completion, .transaction 0x80000000000000002#68, .completion] }

theorem test_witness_TableValidImpliesTreeValid : ∃ s, Reachable s ∧ s.status.tableValid = true :=
  ⟨_, reachable_run 6 bringUp _ (.presents _ _ (.reset (small 2) (by decide)))
    (eq_next State.reset _ (by decide +kernel)), by decide +kernel⟩

/-! ### Witnesses: transactions -/

theorem test_witness_RegisterReads : full.status.state ≠ .busy ∧ (10 : Nat) ≤ 10 := by decide +kernel

/-- Each space at its last element that holds a value. -/
theorem test_witness_ElementReads :
    full.status.state ≠ .busy ∧ full.status.treeValid = true ∧ full.status.tableValid = true ∧
    full.text.read 3 = some 2 ∧ 3 < full.params.maxText ∧
    full.stream.read 5 = some false ∧ 5 < full.params.maxStream ∧
    full.out.read 3 = some 2 ∧
    full.freq.read 3 = some 0 ∧ 3 < full.params.alpha ∧
    full.node.read 4 = some (internalNode 4 2 3) ∧ 4 < full.params.maxNode ∧ 4 < full.nodeCnt.toNat ∧
    full.codeLen.read 3 = some 0 ∧
    full.codeLen.read 1 = some 2 ∧ full.codeBit.read (1 * full.params.alpha + 1) = some true := by decide +kernel

theorem test_witness_ElementReads_lastIndex :
    ({ full with text := [(10, 3)], stream := [(23, true)], out := [(10, 3)] } : State).text.read 10 = some 3 ∧
    ({ full with text := [(10, 3)], stream := [(23, true)], out := [(10, 3)] } : State).stream.read 23 = some true ∧
    ({ full with text := [(10, 3)], stream := [(23, true)], out := [(10, 3)] } : State).out.read 10 = some 3 := by decide

/-- The last legal index of each space and the first illegal one. -/
theorem test_witness_LegalIndexTable :
    [(Space.reg, 9), (.text, 10), (.stream, 23), (.out, 10), (.freq, 3), (.node, 52), (.codeLen, 3),
      (.codeBit, 15)].map (fun e => legalIndex (small 2) e.1 e.2) = List.replicate 8 true ∧
    [(Space.reg, 10), (.text, 11), (.stream, 24), (.out, 11), (.freq, 4), (.node, 53), (.codeLen, 4), (.codeBit, 16),
      (.node, 56)].map (fun e => legalIndex (small 2) e.1 e.2) = List.replicate 9 false := by decide

/-- WR of an element whose index and value are at the end of their ranges. -/
theorem test_witness_WriteTextThenRead : full.status.state ≠ .busy ∧ 10 < full.params.maxText := by decide +kernel

theorem test_witness_WriteStreamThenRead : full.status.state ≠ .busy ∧ 23 < full.params.maxStream := by decide +kernel

theorem test_witness_WriteConfigurationAndLengths :
    full.status.state ≠ .busy ∧ (11#32).toNat ≤ full.params.maxText ∧ (24#32).toNat ≤ full.params.maxStream := by
  decide +kernel

theorem test_witness_IssueStoresAndStarts : full.status.state ≠ .busy ∧ fullBusy.status.state = .busy := by
  decide +kernel

/-- Every error belongs to just one of the three groups. -/
theorem test_witness_ErrorEntryEffects :
    (CmdError.symbolNotInTable ≠ .emptyInput ∧ CmdError.symbolNotInTable ≠ .malformedStream ∧
      CmdError.symbolNotInTable ≠ .outputOverflow) ∧
    (CmdError.malformedStream ≠ .emptyInput ∧ CmdError.malformedStream ≠ .symbolNotInTable ∧
      CmdError.malformedStream ≠ .streamOverflow) := by decide

/-! ### Witnesses: BUILD -/

def text (xs : List Symbol) : State := withText (start 2) xs

theorem test_witness_BuildOfEmptyTextRaisesEmptyInput : (start 2).textLen = 0 ∧ (withText full []).textLen = 0 := by
  decide +kernel

theorem test_witness_BuildCountsTheText : (text abcc).textLen ≠ 0 ∧ 3 < (text abcc).params.alpha := by decide

theorem test_witness_BuildCompletes :
    (text abcc).params.wellFormed = true ∧ (text abcc).textLen ≠ 0 ∧ (text aaaa).present.length = 1 ∧
    (text abcc).present.length = 3 := by decide

theorem test_witness_BuildSeedsLeavesInOrder :
    (text abcc).textLen ≠ 0 ∧ (text abcc).present[0]? = some 0 ∧ (text abcc).present[2]? = some 2 := by decide

/-- Two Leaves and two Internal nodes of one weight, and a lighter Leaf. -/
def queue : List Entry :=
  [⟨0, leafNode 2 0⟩, ⟨2, leafNode 2 2⟩, ⟨1, leafNode 1 1⟩, ⟨3, internalNode 2 4 5⟩, ⟨6, internalNode 2 7 8⟩]

theorem test_witness_BeforeIsAStrictTotalOrder : SlotsInOrder queue ∧ queue ≠ [] := ⟨⟨by decide, by decide⟩, by decide⟩

theorem test_witness_PassMergesTheTwoLeast :
    SlotsInOrder (seedLeaves (text abcc).textCounts [0, 1]).queue ∧
    2 ≤ (seedLeaves (text abcc).textCounts [0, 1]).queue.length :=
  ⟨⟨by decide, by decide⟩, by decide⟩

/-- The first and the last Internal slot, without and with the legacy rule. -/
theorem test_witness_EveryInternalSlotMergesTheTwoLeast :
    (text abcc).params.wellFormed = true ∧ (text abcc).textLen ≠ 0 ∧ (text abcc).present.length = 3 ∧
    ¬ (text abcc).legacyNow ∧ 3 < 2 * (text abcc).present.length - 1 ∧ 4 < 2 * (text abcc).present.length - 1 ∧
    (withLegacy (text [2, 3, 0])).legacyNow ∧ (withLegacy (text [2, 3, 0])).present.length = 3 := by
  refine ⟨by decide, by decide, by decide, ?_, by decide, by decide, ⟨rfl, by decide, by decide⟩, by decide⟩
  rintro ⟨h, _⟩
  cases h

theorem test_witness_LegacyRuleMergesFirst :
    (withLegacy (text [2, 3])).params.wellFormed = true ∧ (withLegacy (text [2, 3])).textLen ≠ 0 ∧
    (withLegacy (text [2, 3])).legacyNow := ⟨by decide, by decide, rfl, by decide, by decide⟩

theorem test_witness_LegacyFlagNeedsBothSymbols :
    (text abcc).textLen ≠ 0 ∧
    ¬ ((text abcc).params.legacySymL ∈ (text abcc).textSymbols ∧
      (text abcc).params.legacySymR ∈ (text abcc).textSymbols) := by decide

theorem test_witness_BuildDependsOnlyOnCounts :
    (text [0, 0, 1, 1]).params = (text [1, 0, 1, 0]).params ∧ (text [0, 0, 1, 1]).cfg = (text [1, 0, 1, 0]).cfg ∧
    (text [0, 0, 1, 1]).textLen ≠ 0 ∧ (text [1, 0, 1, 0]).textLen ≠ 0 ∧
    ∀ x < (text [0, 0, 1, 1]).params.alpha,
      (text [0, 0, 1, 1]).textSymbols.count x = (text [1, 0, 1, 0]).textSymbols.count x := by decide

/-- A text as long as the capacity. -/
theorem test_witness_BuildEstablishesTheTreeInvariant :
    (text (0 :: ccccddddab)).params.wellFormed = true ∧ (text (0 :: ccccddddab)).textLen ≠ 0 ∧
    (text (0 :: ccccddddab)).textLen.toNat = (text (0 :: ccccddddab)).params.maxText := by decide

theorem test_witness_BuildTreeIsOptimal :
    (text abcc).params.wellFormed = true ∧ (text abcc).textLen ≠ 0 ∧ ¬ (text abcc).legacyNow ∧
    (∀ x ∈ (text abcc).textSymbols, codeIn [(0, [false, false]), (1, [false, true]), (2, [true])] x ≠ []) ∧
    PrefixFree (codeIn [(0, [false, false]), (1, [false, true]), (2, [true])]) (text abcc).textSymbols := by
  refine ⟨by decide, by decide, ?_, by decide, ?_⟩
  · rintro ⟨h, _⟩
    cases h
  · unfold PrefixFree
    decide

/-! ### Witnesses: GENTAB -/

theorem test_witness_GentabWithoutTreeRaisesNoTree : (start 2).status.treeValid = false := by decide

theorem test_witness_GentabWritesTheTreesTable :
    full.params.wellFormed = true ∧ full.status.treeValid = true ∧ full.HoldsTree :=
  ⟨by decide +kernel, by decide +kernel, full_holdsTree⟩

theorem test_witness_DegenerateTableIsOneZeroBit :
    (treeOfText 2 aaaa).status.treeValid = true ∧
    ((treeOfText 2 aaaa).nodeAt (treeOfText 2 aaaa).rootSlot).tag = .leaf ∧
    ((treeOfText 2 aaaa).nodeAt (treeOfText 2 aaaa).rootSlot).sym < (treeOfText 2 aaaa).params.alpha ∧
    ((treeOfText 2 [3]).nodeAt (treeOfText 2 [3]).rootSlot).tag = .leaf ∧
    ((treeOfText 2 [3]).nodeAt (treeOfText 2 [3]).rootSlot).sym + 1 = (treeOfText 2 [3]).params.alpha := by
  decide +kernel

theorem test_witness_TableOfATreeIsAPrefixCode :
    full.params.wellFormed = true ∧ full.HoldsTree ∧ 2 ≤ full.nleaf.toNat ∧ 3 < full.params.alpha :=
  ⟨by decide +kernel, full_holdsTree, by decide +kernel, by decide +kernel⟩

/-! ### Witnesses: ENCODE -/

theorem test_witness_EncodeWithoutTableRaisesNoTable : (treeOfText 2 abcc).status.tableValid = false := by
  decide +kernel

/-- "AAAAAAAA" with the table of V12 (CFG = 0): 24 bits, the capacity; and the empty text. -/
def eightAs : State := withText (tableOfText 2 ccccddddab) (List.replicate 8 0)

theorem test_witness_EncodeConcatenatesTheCodes :
    (eightAs.params.wellFormed = true ∧ eightAs.status.tableValid = true ∧
      (∀ x ∈ eightAs.textSymbols, eightAs.codeOf x ≠ []) ∧
      (concatCodes eightAs.codeOf eightAs.textSymbols).length = eightAs.params.maxStream) ∧
    (withText eightAs []).textSymbols = [] ∧ (withText eightAs []).status.tableValid = true := by decide +kernel

/-- "aabb" without c: the first symbol, and the last. -/
def noC : State := withText (tableOfText 2 [0, 0, 1, 1]) [0, 1, 2]
def onlyC : State := withText (tableOfText 2 [0, 0, 1, 1]) [2]

theorem test_witness_EncodeReportsAbsentSymbol :
    (noC.status.tableValid = true ∧ noC.textSymbols = [0, 1] ++ 2 :: [] ∧ (∀ y ∈ [0, 1], noC.codeOf y ≠ []) ∧
      (concatCodes noC.codeOf [0, 1]).length ≤ noC.params.maxStream ∧ noC.codeOf 2 = []) ∧
    onlyC.status.tableValid = true ∧ onlyC.textSymbols = [] ++ 2 :: [] ∧ onlyC.codeOf 2 = [] := by decide +kernel

/-- One more "A" does not fit. -/
def nineAs : State := withText (tableOfText 2 ccccddddab) (List.replicate 9 0)

theorem test_witness_EncodeReportsStreamOverflow :
    nineAs.status.tableValid = true ∧ nineAs.textSymbols = List.replicate 8 0 ++ 0 :: [] ∧
    (∀ y ∈ List.replicate 8 0, nineAs.codeOf y ≠ []) ∧
    (concatCodes nineAs.codeOf (List.replicate 8 0)).length ≤ nineAs.params.maxStream ∧ nineAs.codeOf 0 ≠ [] ∧
    nineAs.params.maxStream < (concatCodes nineAs.codeOf (List.replicate 8 0 ++ [0])).length := by decide +kernel

theorem test_witness_EncodedLengthIsTheWeightedSum :
    (text ccccddddab).params.wellFormed = true ∧ (text ccccddddab).textLen ≠ 0 ∧
    (text ccccddddab).textLen.toNat ≤ (text ccccddddab).params.maxText := by decide

/-! ### Witnesses: DECODE -/

theorem test_witness_DecodeWithoutTreeRaisesNoTree : (start 2).status.treeValid = false := by decide

/-- 11 bits, as many as OUT has room for, and 12. -/
theorem test_witness_DegenerateDecodeRepeatsTheSymbol :
    (withStream (treeOfText 2 aaaa) (List.replicate 11 1)).status.treeValid = true ∧
    ((treeOfText 2 aaaa).nodeAt (treeOfText 2 aaaa).rootSlot).tag = .leaf ∧
    (withStream (treeOfText 2 aaaa) (List.replicate 11 1)).streamLen.toNat =
      (withStream (treeOfText 2 aaaa) (List.replicate 11 1)).params.maxText ∧
    (withStream (treeOfText 2 aaaa) (List.replicate 12 0)).params.maxText + 1 =
      (withStream (treeOfText 2 aaaa) (List.replicate 12 0)).streamLen.toNat := by decide +kernel

/-- A stream with `full`'s tree: 'c' "0", 'a' "10", 'b' "11". -/
def read (bits : List Nat) : State := withStream full bits

theorem read_holdsTree (bits : List Nat) : (read bits).HoldsTree := { full_holdsTree with }

/-- Eleven symbols, as many as OUT has room for. -/
theorem test_witness_DecodeWalksTheTree :
    (read (1 :: 1 :: List.replicate 10 0)).params.wellFormed = true ∧
    (read (1 :: 1 :: List.replicate 10 0)).status.treeValid = true ∧
    (read (1 :: 1 :: List.replicate 10 0)).HoldsTree ∧ 2 ≤ (read (1 :: 1 :: List.replicate 10 0)).nleaf.toNat ∧
    (read (1 :: 1 :: List.replicate 10 0)).tree.decodeBits (read (1 :: 1 :: List.replicate 10 0)).streamBits =
      (1 :: List.replicate 10 2, []) ∧
    (1 :: List.replicate 10 2).length ≤ (read (1 :: 1 :: List.replicate 10 0)).params.maxText :=
  ⟨by decide +kernel, by decide +kernel, read_holdsTree _, by decide +kernel, by decide +kernel, by decide +kernel⟩

theorem test_witness_DecodeReportsMalformedStream :
    (read [0, 1]).params.wellFormed = true ∧ (read [0, 1]).status.treeValid = true ∧ (read [0, 1]).HoldsTree ∧
    2 ≤ (read [0, 1]).nleaf.toNat ∧ (read [0, 1]).tree.decodeBits (read [0, 1]).streamBits = ([2], [true]) ∧
    [2].length ≤ (read [0, 1]).params.maxText :=
  ⟨by decide +kernel, by decide +kernel, read_holdsTree _, by decide +kernel, by decide +kernel, by decide +kernel⟩

/-- The twelfth symbol does not fit; an incomplete code follows it. -/
def tooLong : State := read (List.replicate 12 0 ++ [1])

theorem test_witness_DecodeReportsOutputOverflow :
    tooLong.params.wellFormed = true ∧ tooLong.status.treeValid = true ∧ tooLong.HoldsTree ∧
    2 ≤ tooLong.nleaf.toNat ∧ tooLong.streamBits = List.replicate 11 false ++ false :: [true] ∧
    (tooLong.tree.decodeBits (List.replicate 11 false)).1.length = tooLong.params.maxText ∧
    (tooLong.tree.decodeBits (List.replicate 11 false ++ [false])).1.length = tooLong.params.maxText + 1 :=
  ⟨by decide +kernel, by decide +kernel, read_holdsTree _, by decide +kernel, by decide +kernel, by decide +kernel,
    by decide +kernel⟩

theorem test_witness_CodesDecodeBack :
    (Tree.internal 4 (.leaf 2 2) (.internal 2 (.leaf 1 0) (.leaf 1 1))).symbols.Nodup ∧
    ∀ x ∈ [0, 2, 1], x ∈ (Tree.internal 4 (.leaf 2 2) (.internal 2 (.leaf 1 0) (.leaf 1 1))).symbols := by decide

/-- A text of V12, and the one of V8; both encodings fit. -/
theorem test_witness_RoundTrip :
    (text ccccddddab).params.wellFormed = true ∧ (text ccccddddab).textLen ≠ 0 ∧
    (text ccccddddab).textLen.toNat ≤ (text ccccddddab).params.maxText ∧
    (∀ i < (text ccccddddab).textLen.toNat, ((text ccccddddab).text.read i).isSome = true) ∧
    (concatCodes (tableOfText 2 ccccddddab).codeOf (text ccccddddab).textSymbols).length ≤
      (text ccccddddab).params.maxStream ∧
    (text aaaa).present.length = 1 ∧ ∀ i < (text aaaa).textLen.toNat, ((text aaaa).text.read i).isSome = true := by
  decide +kernel

/-! ### Witnesses: CLEAR and the whole machine -/

/-- STATUS.STICKY = 1, by a NoTable; then CLEAR in flight. -/
def clearing : State := inFlight (after .encode (treeOfText 2 abcc)) 5

theorem test_witness_ClearRestoresTheRegisters :
    (∃ t, exec .build full = .next t) ∧ (∃ t, exec .gentab full = .next t) ∧ (∃ t, exec .encode full = .next t) ∧
    (∃ t, exec .decode full = .next t) ∧
    step clearing = .next (stepped clearing) ∧ clearing.status.sticky = true ∧
    (stepped clearing).status.sticky = false :=
  ⟨⟨_, eq_next State.reset _ (by decide +kernel)⟩, ⟨_, eq_next State.reset _ (by decide +kernel)⟩,
    ⟨_, eq_next State.reset _ (by decide +kernel)⟩, ⟨_, eq_next State.reset _ (by decide +kernel)⟩,
    eq_next clearing _ (by decide +kernel), by decide +kernel, by decide +kernel⟩

/-- `full` runs each command, with success; `start` ends each (but CLEAR) in an error. -/
theorem test_witness_CommandFrames :
    [Instr.build, .gentab, .encode, .decode].map (fun i => isNext (exec i full)) = [true, true, true, true] ∧
    [Instr.build, .gentab, .encode, .decode].map (fun i => (after i full).status.err) = [none, none, none, none] ∧
    [Instr.build, .gentab, .encode, .decode].map (fun i => (after i (start 2)).status.err) =
      [some .emptyInput, some .noTree, some .noTable, some .noTree] := by decide +kernel

/-- An issue: neither a completion nor a reset. -/
theorem test_witness_OnlyCompletionsChangeResults :
    ∃ t, step issuing = .next t ∧ ¬ issuing.completes ∧ ¬ issuing.resets := by
  refine ⟨_, eq_next State.reset _ (by decide), ?_, ?_⟩
  · rintro ⟨h, _⟩
    cases h
  · rintro ⟨_, h⟩
    cases h

theorem start_inv : (start 2).Inv where
  params := by decide
  canonical := by constructor <;> decide
  inRange := by constructor <;> decide
  lengths := by constructor <;> decide
  flags := by constructor <;> decide
  tree h := by cases h
  noTree := by decide
  table h := by cases h
  noTable := by decide

/-- Each command's error, and (for ENCODE and DECODE) a text and a stream that are written. -/
theorem test_witness_ReissuedCommandRepeatsItsError :
    (start 2).Inv ∧ (exec .build (start 2) = .next (after .build (start 2)) ∧
      (after .build (start 2)).status.err = some .emptyInput) ∧
    (exec .gentab (start 2) = .next (after .gentab (start 2)) ∧
      (after .gentab (start 2)).status.err = some .noTree) ∧
    ((∀ i < (start 2).textLen.toNat, ((start 2).text.read i).isSome = true) ∧
      exec .encode (start 2) = .next (after .encode (start 2)) ∧
      (after .encode (start 2)).status.err = some .noTable) ∧
    ((∀ k < (start 2).streamLen.toNat, ((start 2).stream.read k).isSome = true) ∧
      exec .decode (start 2) = .next (after .decode (start 2)) ∧
      (after .decode (start 2)).status.err = some .noTree) :=
  ⟨start_inv, ⟨eq_next _ _ (by decide), by decide⟩, ⟨eq_next _ _ (by decide), by decide⟩,
    ⟨by decide, eq_next _ _ (by decide), by decide⟩, ⟨by decide, eq_next _ _ (by decide), by decide⟩⟩

/-- The data errors of ENCODE and DECODE, repeated. -/
theorem test_witness_ReissuedCommandRepeatsItsError_data :
    (∀ i < noC.textLen.toNat, (noC.text.read i).isSome = true) ∧
    (after .encode noC).status.err = some .symbolNotInTable ∧
    (after .encode (after .encode noC)).errInfo = (after .encode noC).errInfo ∧
    (∀ k < (read [0, 1]).streamLen.toNat, ((read [0, 1]).stream.read k).isSome = true) ∧
    (after .decode (read [0, 1])).status.err = some .malformedStream ∧
    (after .decode (after .decode (read [0, 1]))).errInfo = (after .decode (read [0, 1])).errInfo := by decide +kernel

end Sys2Proof.Tests
end

section
/-! PROOF. The state after reset (10_state.md R44) and the order of the two valid flags (R43). -/

namespace Sys2Proof.Machine

variable {s t : State}

/-! ### Reset -/

@[simp] theorem Status.word_cleared : Status.cleared.word = 0 := by decide

@[simp] theorem Cfg.word_legacyOff : Cfg.word { legacyCd := false } = 0 := by decide

/-- R44 says nothing of the parameters, of what is presented at the port, or of the draw number. -/
theorem State.reset_with_atReset (p : Params) (events : List PortEvent) (n : Nat) :
    ({ State.reset with params := p, pending := events, draws := n } : State).AtReset where
  cmd := rfl
  status := Status.word_cleared
  flags := rfl
  cfg := Cfg.word_legacyOff
  lengths := ⟨rfl, rfl, rfl⟩
  treeRegs := ⟨rfl, rfl, rfl⟩
  errInfo := rfl
  data _ := ⟨rfl, rfl, rfl⟩
  tables _ := ⟨rfl, rfl, rfl, rfl⟩

theorem State.resetNow_atReset (s : State) : s.resetNow.AtReset := State.reset_with_atReset s.params s.pending _

theorem step_of_reset {rest : List PortEvent} (h : s.pending = .reset :: rest) :
    step s = .next ({ s with pending := rest } : State).resetNow := by
  simp [step, State.nextAction, h]

/-- A block that is not BUSY does nothing by itself (70_reset_and_hazards.md R222). -/
theorem step_of_not_busy (hb : s.status.state ≠ .busy) (hp : s.pending = []) : step s = .next s := by
  simp [step, State.nextAction, State.complete, hp, s.busy_eq_false_iff.mpr hb]

theorem State.AtReset.not_busy (h : s.AtReset) : s.status.state ≠ .busy := by simp [h.flags]

/-- Settles O12: R44 is a fact about the constants a reset writes, and from such a state, which is IDLE, an empty
port asks for nothing. -/
theorem resetStateIsAllZero : Obligations.ResetStateIsAllZero := by
  refine ⟨State.reset_with_atReset _ _ _, fun s h => ?_, fun s h hp => step_of_not_busy h.not_busy hp⟩
  obtain ⟨rest, hrest⟩ := h
  exact ⟨_, step_of_reset hrest, State.resetNow_atReset _, rfl⟩

/-! ### What a transaction does to STATUS -/

theorem execRd_status {space : Space} {index : Nat} (h : execRd space index s = .next t) : t.status = s.status := by
  rcases execRd_cases h with rfl | ⟨-, -, rfl⟩ <;> rfl

theorem State.writeReg_status (s : State) (r : Reg) (w : Word) :
    (s.writeReg r w).status = s.status ∨ (s.writeReg r w).status = s.status.issued := by
  rcases s.writeReg_cases r w with h | ⟨-, h⟩ | ⟨-, h⟩ | ⟨-, -, h⟩ | ⟨-, -, h⟩ <;> simp [h]

theorem State.writeElement_status (s : State) (space : Space) (index : Nat) (w : Word) :
    (s.writeElement space index w).status = s.status ∨ (s.writeElement space index w).status = s.status.issued := by
  rcases s.writeElement_cases space index w with h | ⟨r, -, -, h⟩ | ⟨-, h⟩ | ⟨-, h⟩
  · simp [h]
  · exact h ▸ s.writeReg_status r w
  · simp [h]
  · simp [h]

theorem execWr_status {space : Space} {index : Nat} {wdata : Word} (h : execWr space index wdata s = .next t) :
    t.status = s.status ∨ t.status = s.status.issued := by
  rcases execWr_cases h with rfl | ⟨-, -, -, rfl⟩
  · exact .inl rfl
  · exact s.writeElement_status space index wdata

/-! ### TABLE_VALID = 1 implies TREE_VALID = 1 (R43) -/

/-- The invariant of R43, of a STATUS. -/
def Status.TableNeedsTree (st : Status) : Prop := st.tableValid = true → st.treeValid = true

namespace Status.TableNeedsTree

variable {st : Status}

theorem cleared : Status.cleared.TableNeedsTree := by simp [TableNeedsTree]

theorem issued (h : st.TableNeedsTree) : st.issued.TableNeedsTree := h

theorem succeeded (h : st.TableNeedsTree) : st.succeeded.TableNeedsTree := h

theorem failed (h : st.TableNeedsTree) (e : CmdError) : (st.failed e).TableNeedsTree := h

theorem treeBuilt (st : Status) : st.treeBuilt.TableNeedsTree := by simp [TableNeedsTree]

theorem treeLost (st : Status) : st.treeLost.TableNeedsTree := by simp [TableNeedsTree]

/-- GENTAB sets TABLE_VALID, but only where there is a tree (41_gentab.md R145). -/
theorem tableBuilt (h : st.treeValid = true) : st.tableBuilt.TableNeedsTree := fun _ => h

/-- The only error that touches a valid flag is EmptyInput, which clears both (60_exceptions.md R202). -/
theorem after_raise (h : s.status.TableNeedsTree) (e : CmdError) (info : Word) :
    (s.raise e info).status.TableNeedsTree := by
  rw [State.raise_status, State.errorEffects_status]
  split
  · exact (treeLost _).failed e
  · exact h.failed e

theorem after_exec {i : Instr} (h : s.status.TableNeedsTree) (hx : exec i s = .next t) : t.status.TableNeedsTree := by
  cases i with
  | build =>
    rcases execBuild_cases hx with ⟨-, rfl⟩ | ⟨-, rfl⟩
    · exact h.after_raise _ _
    · exact (treeBuilt s.status).succeeded
  | gentab =>
    rcases execGentab_cases hx with ⟨-, rfl⟩ | ⟨htree, rfl⟩
    · exact h.after_raise _ _
    · exact (tableBuilt htree).succeeded
  | encode =>
    rcases execEncode_cases hx with ⟨-, rfl⟩ | ⟨-, bits, -, rfl⟩ | ⟨-, e, k, -, rfl⟩
    · exact h.after_raise _ _
    · exact h.succeeded
    · exact h.after_raise _ _
  | decode =>
    rcases execDecode_cases hx with ⟨-, rfl⟩ | ⟨-, xs, -, rfl⟩ | ⟨-, e, k, -, rfl⟩
    · exact h.after_raise _ _
    · exact h.succeeded
    · exact h.after_raise _ _
  | clear =>
    rw [execClear_cases hx]
    exact cleared
  | rd space index => exact (execRd_status hx).symm ▸ h
  | wr space index wdata =>
    rcases execWr_status hx with ht | ht
    · exact ht.symm ▸ h
    · exact ht.symm ▸ h.issued

theorem after_step (h : s.status.TableNeedsTree) (hs : step s = .next t) : t.status.TableNeedsTree := by
  obtain ⟨r, events, hr, hcase⟩ := step_cases hs
  have hr : r.status.TableNeedsTree := by rw [hr]; exact h
  rcases hcase with ⟨w, -, hx⟩ | ⟨-, rfl⟩ | ⟨-, ⟨-, rfl⟩ | ⟨-, i, -, hx⟩ | ⟨-, w, -, rfl⟩⟩
  · exact hr.after_exec hx
  · exact cleared
  · exact hr
  · exact hr.after_exec hx
  · exact hr.after_raise _ _

end Status.TableNeedsTree

theorem Reachable.tableNeedsTree (h : Reachable s) : s.status.TableNeedsTree := by
  induction h with
  | reset p _ => exact Status.TableNeedsTree.cleared
  | presents s events _ ih => exact ih
  | steps s t _ hs ih => exact ih.after_step hs

/-- Settles O17: the flags are ordered at reset, every step keeps the order, and what is presented at the port is no
flag. -/
theorem tableValidImpliesTreeValid : Obligations.TableValidImpliesTreeValid :=
  fun _ h => h.tableNeedsTree

end Sys2Proof.Machine
end

section
/-! PROOF. The command map (30_encoding.md R92): a command word is legal exactly when it is one of five. -/

namespace Sys2Proof

/-- R92's legality of a command word: `ZERO` (bits 31:4) is 0 and `OP` (bits 3:0) is 1 to 5. -/
def LegalCommand (w : Word) : Prop :=
  w.extractLsb' 4 28 = 0 ∧ 1 ≤ (w.extractLsb' 0 4).toNat ∧ (w.extractLsb' 0 4).toNat ≤ 5

/-- All the command decoder can do: a legal word is a command, any other is rejected by name. -/
theorem decodeCommand_cases (w : Word) :
    (LegalCommand w ∧ ∃ i, decodeCommand w = .ok i) ∨
    (¬ LegalCommand w ∧ decodeCommand w = .error (.illegalCommand w)) := by
  unfold decodeCommand
  split
  case isTrue hzero => exact .inr ⟨fun hl => hzero hl.1, rfl⟩
  case isFalse hzero =>
    have legal_of_op : 1 ≤ (w.extractLsb' 0 4).toNat → (w.extractLsb' 0 4).toNat ≤ 5 → LegalCommand w :=
      fun hlow hhigh => ⟨not_not.mp hzero, hlow, hhigh⟩
    split
    case h_6 _ h1 h2 h3 h4 h5 =>
      rw [imp_false] at h1 h2 h3 h4 h5
      refine .inr ⟨?_, rfl⟩
      rintro ⟨-, hlow, hhigh⟩
      omega
    all_goals exact .inl ⟨legal_of_op (by omega) (by omega), _, rfl⟩

theorem decodeCommand_isOk_iff (w : Word) : (∃ i, decodeCommand w = .ok i) ↔ LegalCommand w := by
  rcases decodeCommand_cases w with ⟨hl, hok⟩ | ⟨hl, herr⟩
  · exact iff_of_true hok hl
  · exact iff_of_false (by simp [herr]) hl

theorem decodeCommand_eq_error (w : Word) (h : ∀ i, decodeCommand w ≠ .ok i) :
    decodeCommand w = .error (.illegalCommand w) := by
  rcases decodeCommand_cases w with ⟨-, i, hok⟩ | ⟨-, herr⟩
  · exact absurd hok (h i)
  · exact herr

/-- Settles O3: the decoder splits the words by R92's legality, and the five words are closed instances. -/
theorem commandMapIsTheFiveWords : Obligations.CommandMapIsTheFiveWords :=
  ⟨decodeCommand_isOk_iff, decodeCommand_eq_error, rfl, rfl, rfl, rfl, rfl⟩

end Sys2Proof
end

section
/-! PROOF. BUILD of an empty text (40_build.md R112). -/

namespace Sys2Proof.Machine

variable {s : State}

theorem exec_build_of_emptyText (h : s.textLen = 0) : exec .build s = .next (s.raise .emptyInput 0) := if_pos h

/-- EmptyInput's own effects (60_exceptions.md R202): no tree, no table, and none of their contents. -/
theorem State.raise_emptyInput_dropsTree (s : State) (info : Word) :
    (s.raise .emptyInput info).status.treeValid = false ∧ (s.raise .emptyInput info).status.tableValid = false ∧
    (s.raise .emptyInput info).root = 0 ∧ (s.raise .emptyInput info).nodeCnt = 0 ∧
    (s.raise .emptyInput info).nleaf = 0 ∧
    ∀ i, (s.raise .emptyInput info).freq.read i = none ∧ (s.raise .emptyInput info).node.read i = none ∧
      (s.raise .emptyInput info).codeLen.read i = none ∧ (s.raise .emptyInput info).codeBit.read i = none :=
  ⟨rfl, rfl, rfl, rfl, rfl, fun _ => ⟨rfl, rfl, rfl, rfl⟩⟩

/-- EmptyInput writes none of TEXT, STREAM, OUT, CMD, CFG and the port. -/
theorem State.raise_emptyInput_keeps (s : State) (info : Word) :
    KeepsText s (s.raise .emptyInput info) ∧ KeepsStream s (s.raise .emptyInput info) ∧
    KeepsOut s (s.raise .emptyInput info) ∧ KeepsControl s (s.raise .emptyInput info) ∧
    KeepsPort s (s.raise .emptyInput info) :=
  ⟨⟨rfl, fun _ => rfl⟩, ⟨rfl, fun _ => rfl⟩, ⟨rfl, fun _ => rfl⟩, ⟨rfl, rfl, rfl⟩, ⟨rfl, rfl⟩⟩

/-- Settles O29: BUILD of an empty text is one `raise`, and its effects are those of EmptyInput. -/
theorem buildOfEmptyTextRaisesEmptyInput : Obligations.BuildOfEmptyTextRaisesEmptyInput := by
  intro s hempty
  obtain ⟨htree, htable, hroot, hcnt, hleaf, hdata⟩ := s.raise_emptyInput_dropsTree 0
  exact ⟨_, exec_build_of_emptyText hempty, s.raise_failed _ _, htree, htable, hroot, hcnt, hleaf, hdata,
    s.raise_emptyInput_keeps 0⟩

end Sys2Proof.Machine
end

section
/-! PROOF. The priority order (40_build.md R115, R116): on a collection BUILD makes, `before` compares keys of one
linear order, so the minimum exists and is unique, and the list scan finds it. -/

namespace Sys2Proof.Machine

variable {q es : List Entry} {e i j m m' : Entry}

/-! ### The key -/

/-- A Leaf leaves Q before an Internal node of its weight (R115). -/
def Tag.rank : Tag → ℕ
  | .leaf => 0
  | .internal => 1

/-- The lexicographic key of R116: weight, then tag, then slot. -/
def Entry.key (e : Entry) : ℕ ×ₗ ℕ ×ₗ ℕ := toLex (e.node.weight, toLex (e.node.tag.rank, e.slot))

theorem Entry.key_lt_iff : i.key < j.key ↔
    i.node.weight < j.node.weight ∨ (i.node.weight = j.node.weight ∧
      ((i.node.tag = .leaf ∧ j.node.tag = .internal) ∨ (i.node.tag = j.node.tag ∧ i.slot < j.slot))) := by
  simp only [Entry.key, Prod.Lex.toLex_lt_toLex]
  cases i.node.tag <;> cases j.node.tag <;> simp [Tag.rank]

theorem Entry.slot_eq_of_key_eq (h : i.key = j.key) : i.slot = j.slot :=
  congrArg (fun k : ℕ ×ₗ ℕ ×ₗ ℕ => (ofLex (ofLex k).2).2) h

/-- `before` as R115 states it: two Leaves go by symbol, two Internal nodes by creation order. -/
theorem before_iff : before i j = true ↔
    i.node.weight < j.node.weight ∨ (i.node.weight = j.node.weight ∧
      ((i.node.tag = .leaf ∧ j.node.tag = .internal) ∨
        (i.node.tag = .leaf ∧ j.node.tag = .leaf ∧ i.node.sym < j.node.sym) ∨
        (i.node.tag = .internal ∧ j.node.tag = .internal ∧ i.slot < j.slot))) := by
  simp only [before, Bool.or_eq_true, Bool.and_eq_true, decide_eq_true_eq]
  tauto

/-! ### `before` on a collection BUILD makes -/

namespace SlotsInOrder

variable (h : SlotsInOrder q)
include h

theorem eq_of_slot_eq (hi : i ∈ q) (hj : j ∈ q) : i.slot = j.slot → i = j :=
  List.inj_on_of_nodup_map h.distinct hi hj

theorem eq_of_key_eq (hi : i ∈ q) (hj : j ∈ q) (hk : i.key = j.key) : i = j :=
  h.eq_of_slot_eq hi hj (Entry.slot_eq_of_key_eq hk)

/-- The Leaves' symbols rise with their slots, so either may break a tie (R116). -/
theorem sym_lt_iff_slot_lt (hi : i ∈ q) (hj : j ∈ q) (hli : i.node.tag = .leaf) (hlj : j.node.tag = .leaf) :
    i.node.sym < j.node.sym ↔ i.slot < j.slot := by
  refine ⟨fun hsym => ?_, h.leaves i hi j hj hli hlj⟩
  rcases lt_trichotomy i.slot j.slot with hlt | heq | hgt
  · exact hlt
  · exact absurd hsym (h.eq_of_slot_eq hi hj heq ▸ lt_irrefl _)
  · exact absurd hsym (h.leaves j hj i hi hlj hli hgt).asymm

theorem before_iff_key_lt (hi : i ∈ q) (hj : j ∈ q) : before i j = true ↔ i.key < j.key := by
  rw [before_iff, Entry.key_lt_iff]
  have hleaves := h.sym_lt_iff_slot_lt hi hj
  cases hti : i.node.tag <;> cases htj : j.node.tag <;> simp_all

theorem before_eq_false_iff_key_le (hi : i ∈ q) (hj : j ∈ q) : before i j = false ↔ j.key ≤ i.key := by
  rw [← Bool.not_eq_true, h.before_iff_key_lt hi hj, not_lt]

theorem before_irrefl (hi : i ∈ q) : before i i = false := (h.before_eq_false_iff_key_le hi hi).mpr le_rfl

theorem before_trans {k : Entry} (hi : i ∈ q) (hj : j ∈ q) (hk : k ∈ q) (hij : before i j = true)
    (hjk : before j k = true) : before i k = true := by
  rw [h.before_iff_key_lt hi hj] at hij
  rw [h.before_iff_key_lt hj hk] at hjk
  exact (h.before_iff_key_lt hi hk).mpr (hij.trans hjk)

theorem before_asymm (hi : i ∈ q) (hj : j ∈ q) (hij : before i j = true) : before j i = false :=
  (h.before_eq_false_iff_key_le hj hi).mpr ((h.before_iff_key_lt hi hj).mp hij).le

theorem before_or_before (hi : i ∈ q) (hj : j ∈ q) (hne : i ≠ j) : before i j = true ∨ before j i = true := by
  rw [h.before_iff_key_lt hi hj, h.before_iff_key_lt hj hi]
  exact lt_or_gt_of_ne fun hk => hne (h.eq_of_key_eq hi hj hk)

/-! ### The minimum -/

theorem eq_of_minimal (hm : m ∈ q) (hm' : m' ∈ q) (hmin : ∀ e ∈ q, e ≠ m → before m e = true)
    (hmin' : ∀ e ∈ q, e ≠ m' → before m' e = true) : m' = m := by
  by_contra hne
  have hbefore : before m m' = true := hmin m' hm' hne
  have hbefore' : before m' m = true := hmin' m hm (Ne.symm hne)
  simp [h.before_asymm hm hm' hbefore] at hbefore'

/-- The scan keeps the lesser key at each member, and its start only falls. -/
theorem minEntry_spec (he : e ∈ q) (hes : es ⊆ q) :
    minEntry e es ∈ e :: es ∧ ∀ x ∈ e :: es, (minEntry e es).key ≤ x.key := by
  induction es generalizing e with
  | nil => simp [minEntry]
  | cons x xs ih =>
    obtain ⟨hx, hxs⟩ := List.cons_subset.mp hes
    have hscan : minEntry e (x :: xs) = minEntry (if before x e then x else e) xs := rfl
    rw [hscan]
    split
    case isTrue hb =>
      obtain ⟨hmem, hle⟩ := ih hx hxs
      have hxe : x.key ≤ e.key := ((h.before_iff_key_lt hx he).mp hb).le
      have hmx : (minEntry x xs).key ≤ x.key := hle x List.mem_cons_self
      exact ⟨List.mem_cons_of_mem _ hmem, List.forall_mem_cons.mpr ⟨hmx.trans hxe, hle⟩⟩
    case isFalse hb =>
      obtain ⟨hmem, hle⟩ := ih he hxs
      have hex : e.key ≤ x.key := (h.before_eq_false_iff_key_le hx he).mp (Bool.eq_false_of_not_eq_true hb)
      obtain ⟨hme, hrest⟩ := List.forall_mem_cons.mp hle
      exact ⟨((List.sublist_cons_self x xs).cons_cons e).subset hmem,
        List.forall_mem_cons.mpr ⟨hme, List.forall_mem_cons.mpr ⟨hme.trans hex, hrest⟩⟩⟩

/-- `n <- min(Q) ; Q <- Q \ {n}` (R117). -/
theorem extractMin_spec (hq : q ≠ []) :
    ∃ m, extractMin q = some (m, q.erase m) ∧ m ∈ q ∧ ∀ e ∈ q, e ≠ m → before m e = true := by
  obtain ⟨e, es, rfl⟩ := List.exists_cons_of_ne_nil hq
  obtain ⟨hmem, hle⟩ := h.minEntry_spec List.mem_cons_self (List.subset_cons_self e es)
  refine ⟨minEntry e es, rfl, hmem, fun x hx hne => ?_⟩
  rcases h.before_or_before hmem hx hne.symm with hb | hb
  · exact hb
  · exact absurd ((h.before_iff_key_lt hx hmem).mp hb) (hle x hx).not_gt

end SlotsInOrder

/-- Settles O33: on such a collection `before` compares keys (`before_iff_key_lt`), and the scan ends in the entry with
the least key (`minEntry_spec`). -/
theorem beforeIsAStrictTotalOrder : Obligations.BeforeIsAStrictTotalOrder := by
  intro q h
  refine ⟨fun i hi => h.before_irrefl hi, fun i hi j hj k hk => h.before_trans hi hj hk, fun i hi j hj hne => ?total,
    fun i hi j hj => (h.before_iff_key_lt hi hj).trans Entry.key_lt_iff, fun hq => ?minimum⟩
  case total =>
    exact (h.before_or_before hi hj hne).imp (fun hij => ⟨hij, h.before_asymm hi hj hij⟩)
      (fun hji => ⟨hji, h.before_asymm hj hi hji⟩)
  case minimum =>
    obtain ⟨m, hext, hm, hmin⟩ := h.extractMin_spec hq
    exact ⟨m, _, hext, hm, rfl, hmin, fun m' hm' hmin' => h.eq_of_minimal hm hm' hmin hmin'⟩

end Sys2Proof.Machine
end

section
/-! PROOF. GENTAB without a tree (41_gentab.md R145), and on a tree that is one Leaf (R142). -/

namespace Sys2Proof.Machine

variable {s : State}

/-! ### GENTAB without a tree -/

theorem exec_gentab_of_noTree (h : s.status.treeValid = false) : exec .gentab s = .next (s.raise .noTree 0) :=
  if_neg (by simp [h])

/-- NoTree has no effects of its own (60_exceptions.md R202): only ERR, ERR_INFO, STICKY and STATE change. -/
theorem State.raise_noTree_keeps (s : State) (info : Word) :
    KeepsValidFlags s (s.raise .noTree info) ∧ KeepsText s (s.raise .noTree info) ∧
    KeepsStream s (s.raise .noTree info) ∧ KeepsOut s (s.raise .noTree info) ∧
    KeepsTree s (s.raise .noTree info) ∧ KeepsTable s (s.raise .noTree info) ∧
    KeepsControl s (s.raise .noTree info) ∧ KeepsPort s (s.raise .noTree info) :=
  ⟨⟨rfl, rfl⟩, ⟨rfl, fun _ => rfl⟩, ⟨rfl, fun _ => rfl⟩, ⟨rfl, fun _ => rfl⟩,
    ⟨rfl, rfl, rfl, fun _ => rfl, fun _ => rfl⟩, ⟨fun _ => rfl, fun _ => rfl⟩, ⟨rfl, rfl, rfl⟩, ⟨rfl, rfl⟩⟩

/-- Settles O41: GENTAB without a tree is one `raise`, and NoTree has no effects of its own. -/
theorem gentabWithoutTreeRaisesNoTree : Obligations.GentabWithoutTreeRaisesNoTree :=
  fun s h => ⟨_, exec_gentab_of_noTree h, s.raise_failed _ _, s.raise_noTree_keeps 0⟩

/-! ### GENTAB with a tree -/

theorem exec_gentab_of_tree (h : s.status.treeValid = true) :
    exec .gentab s = .next (s.tableWritten s.codeTables).succeed := if_pos h

/-- A table written before success touches neither STICKY nor what success records. -/
theorem State.tableWritten_succeed_succeeded (s : State) (t : CodeTables) :
    Succeeded s (s.tableWritten t).succeed := (s.tableWritten t).succeed_succeeded

/-! ### The tables -/

@[simp] theorem emptyTables_codeLen_read {alpha y : Nat} (hy : y < alpha) :
    (emptyTables alpha).codeLen.read y = some 0 := by
  simp [emptyTables, Memory.read_table, hy]

theorem setCode_codeLen_read (alpha : Nat) (t : CodeTables) (entry : Symbol × List Bit) (y : Nat) :
    (setCode alpha t entry).codeLen.read y = if y = entry.1 then some entry.2.length else t.codeLen.read y :=
  Memory.read_write t.codeLen entry.1 y entry.2.length

theorem setCode_codeBit_read (alpha : Nat) (t : CodeTables) (entry : Symbol × List Bit) (j : Nat) :
    (setCode alpha t entry).codeBit.read j =
      if entry.1 * alpha ≤ j ∧ j < entry.1 * alpha + entry.2.length then entry.2[j - entry.1 * alpha]?
      else t.codeBit.read j :=
  Memory.read_writeAll t.codeBit (entry.1 * alpha) entry.2 j

/-- The walk is not entered on the degenerate tree: one SetCode, with the code "0" (R142). -/
theorem State.codeTables_of_leaf (h : (s.nodeAt s.rootSlot).tag = .leaf) :
    s.codeTables = setCode s.params.alpha (emptyTables s.params.alpha) ((s.nodeAt s.rootSlot).sym, [false]) := by
  simp [State.codeTables, State.codeCalls, h]

/-- Settles O43: GENTAB makes the one SetCode of R142 over the empty table, and an element it does not write keeps
length 0. -/
theorem degenerateTableIsOneZeroBit : Obligations.DegenerateTableIsOneZeroBit := by
  intro s htree hleaf _
  refine ⟨_, exec_gentab_of_tree htree, s.tableWritten_succeed_succeeded _, ?_⟩
  rw [s.codeTables_of_leaf hleaf]
  refine ⟨?length, ?bit, fun y hy hne => ?others⟩
  case length => simp [setCode_codeLen_read]
  case bit => simp [setCode_codeBit_read]
  case others => simp [setCode_codeLen_read, hne, hy]

end Sys2Proof.Machine
end

section
/-! PROOF. ENCODE without a table (42_encode.md R154). -/

namespace Sys2Proof.Machine

variable {s : State}

theorem exec_encode_of_noTable (h : s.status.tableValid = false) : exec .encode s = .next (s.raise .noTable 0) :=
  if_neg (by simp [h])

/-- An error without effects of its own (60_exceptions.md R202) changes only ERR, ERR_INFO, STICKY and STATE. -/
theorem State.raise_keeps_of_noEffects {e : CmdError} (h : s.errorEffects e = s) (info : Word) :
    KeepsValidFlags s (s.raise e info) ∧ KeepsText s (s.raise e info) ∧ KeepsStream s (s.raise e info) ∧
    KeepsOut s (s.raise e info) ∧ KeepsTree s (s.raise e info) ∧ KeepsTable s (s.raise e info) ∧
    KeepsControl s (s.raise e info) ∧ KeepsPort s (s.raise e info) := by
  simp [KeepsValidFlags, KeepsText, KeepsStream, KeepsOut, KeepsTree, KeepsTable, KeepsControl, KeepsPort, h]

/-- Settles O45: ENCODE without a table is one `raise`, and NoTable has no effects of its own. -/
theorem encodeWithoutTableRaisesNoTable : Obligations.EncodeWithoutTableRaisesNoTable :=
  fun s h => ⟨_, exec_encode_of_noTable h, s.raise_failed _ _, State.raise_keeps_of_noEffects rfl 0⟩

end Sys2Proof.Machine
end

section
/-! PROOF. DECODE without a tree (43_decode.md R167). -/

namespace Sys2Proof.Machine

variable {s : State}

theorem exec_decode_of_noTree (h : s.status.treeValid = false) : exec .decode s = .next (s.raise .noTree 0) :=
  if_neg (by simp [h])

/-- Settles O50: DECODE without a tree is one `raise`, and NoTree has no effects of its own. -/
theorem decodeWithoutTreeRaisesNoTree : Obligations.DecodeWithoutTreeRaisesNoTree :=
  fun s h => ⟨_, exec_decode_of_noTree h, s.raise_failed _ _, s.raise_noTree_keeps 0⟩

end Sys2Proof.Machine
end

section
/-! PROOF. Issue (44_control.md R175): what a WR of CMD does, and that no other transaction starts a command. -/

namespace Sys2Proof.Machine

variable {s t : State}

/-! ### A WR of CMD -/

/-- While BUSY the host may write nothing (20_memory.md R64 step 1). -/
theorem exec_wr_of_busy (h : s.status.state = .busy) (space : Space) (index : Nat) (wdata : Word) :
    exec (.wr space index wdata) s = .next s.accessFault :=
  if_pos (s.busy_iff.mpr h)

/-- Register 0 is legal and writable for any parameters, so nothing but BUSY holds up an issue. -/
theorem exec_wr_cmd_of_not_busy (h : s.status.state ≠ .busy) (w : Word) :
    exec (.wr .reg 0 w) s = .next (s.issue w).acknowledge :=
  if_neg (by simp [s.busy_eq_false_iff.mpr h])

theorem State.issue_acknowledge_keeps (s : State) (w : Word) :
    KeepsText s (s.issue w).acknowledge ∧ KeepsStream s (s.issue w).acknowledge ∧
    KeepsOut s (s.issue w).acknowledge ∧ KeepsTree s (s.issue w).acknowledge ∧
    KeepsTable s (s.issue w).acknowledge ∧ (s.issue w).acknowledge.pending = s.pending := by
  simp [KeepsText, KeepsStream, KeepsOut, KeepsTree, KeepsTable]

/-- Settles O26: not BUSY, WR CMD is one issue and its acknowledgement; BUSY, it is an AccessFault. -/
theorem issueStoresAndStarts : Obligations.IssueStoresAndStarts := by
  refine fun s w => ⟨fun hidle => ?issued, fun hbusy => ?refused⟩
  case issued =>
    exact ⟨_, _, exec_wr_cmd_of_not_busy hidle w, rfl, rfl, rfl, rfl, rfl, rfl, s.issue_acknowledge_keeps w⟩
  case refused => exact ⟨_, _, exec_wr_of_busy hbusy .reg 0 w, rfl, s.accessFault_keepsBlock⟩

/-! ### The other transactions -/

theorem Reg.ofNumber?_eq_cmd {n : Nat} (h : Reg.ofNumber? n = some .cmd) : n = 0 := by
  unfold Reg.ofNumber? at h
  split at h
  · rfl
  all_goals cases h

/-- CMD is the only register whose write touches STATUS. -/
theorem State.writeReg_status_cases (s : State) (r : Reg) (w : Word) :
    (s.writeReg r w).status = s.status ∨ r = .cmd ∧ (s.writeReg r w).status = s.status.issued := by
  rcases s.writeReg_cases r w with h | ⟨hr, h⟩ | ⟨-, h⟩ | ⟨-, -, h⟩ | ⟨-, -, h⟩
  case inr.inl => exact .inr ⟨hr, by simp [h]⟩
  all_goals exact .inl (by simp [h])

/-- A WR that changes STATUS is the issue of a command. -/
theorem execWr_status_cases {space : Space} {index : Nat} {wdata : Word} (h : execWr space index wdata s = .next t) :
    t.status = s.status ∨
    (s.status.state ≠ .busy ∧ space = .reg ∧ index = 0 ∧ t.status = s.status.issued) := by
  rcases execWr_cases h with rfl | ⟨hidle, -, -, rfl⟩
  · exact .inl rfl
  · rcases s.writeElement_cases space index wdata with h | ⟨r, hspace, hreg, h⟩ | ⟨-, h⟩ | ⟨-, h⟩
    · exact .inl (by simp [h])
    · rw [h]
      rcases s.writeReg_status_cases r wdata with hkept | ⟨rfl, hissued⟩
      · exact .inl hkept
      · exact .inr ⟨hidle, hspace, Reg.ofNumber?_eq_cmd hreg, hissued⟩
    · exact .inl (by simp [h])
    · exact .inl (by simp [h])

end Sys2Proof.Machine
end

section
/-! PROOF. The five command words (30_encoding.md R92), and the two transactions (R91). -/

namespace Sys2Proof

/-- R92's two fields leave five words. -/
theorem LegalCommand.mem_five {w : Word} (h : LegalCommand w) :
    w ∈ [0x00000001#32, 0x00000002#32, 0x00000003#32, 0x00000004#32, 0x00000005#32] := by
  obtain ⟨hzero, hlow, hhigh⟩ := h
  have hzero : w.toNat / 2 ^ 4 % 2 ^ 28 = 0 := by
    simpa [BitVec.extractLsb'_toNat, Nat.shiftRight_eq_div_pow] using congrArg BitVec.toNat hzero
  have hop : (w.extractLsb' 0 4).toNat = w.toNat % 2 ^ 4 := by simp [BitVec.extractLsb'_toNat]
  rw [hop] at hlow hhigh
  simp only [List.mem_cons, List.not_mem_nil, or_false]
  bv_omega

/-- Every command word but CLEAR's is one of the four that work on the data. -/
theorem decodeCommand_mem_of_ne_clear {w : Word} {i : Instr} (h : decodeCommand w = .ok i) (hne : w ≠ 0x00000005) :
    i ∈ [Instr.build, .gentab, .encode, .decode] := by
  have hw := ((decodeCommand_isOk_iff w).mp ⟨i, h⟩).mem_five
  simp only [List.mem_cons, List.not_mem_nil, or_false] at hw
  rcases hw with rfl | rfl | rfl | rfl | rfl
  case inr.inr.inr.inr => exact absurd rfl hne
  all_goals cases h; decide

/-- A word in none of them is rejected by name (R95, R96). -/
theorem decodeCommand_of_not_mem_five {w : Word}
    (h : w ∉ [0x00000001#32, 0x00000002#32, 0x00000003#32, 0x00000004#32, 0x00000005#32]) :
    decodeCommand w = .error (.illegalCommand w) :=
  decodeCommand_eq_error w fun i hok => h ((decodeCommand_isOk_iff w).mp ⟨i, hok⟩).mem_five

theorem decodeTransaction_cases (w : TransactionWord) :
    (∃ space index, decodeTransaction w = .rd space index) ∨
    ∃ space index wdata, decodeTransaction w = .wr space index wdata := by
  unfold decodeTransaction
  split
  · exact .inr ⟨_, _, _, rfl⟩
  · exact .inl ⟨_, _, rfl⟩

end Sys2Proof
end

section
/-! PROOF. The completion step (44_control.md R176 to R179) and the sequencing table (R180). -/

namespace Sys2Proof.Machine

variable {s t : State}

theorem Phase.idle_or_done_of_ne_busy {p : Phase} (h : p ≠ .busy) : p = .idle ∨ p = .done := by
  cases p with
  | idle => exact .inl rfl
  | busy => exact absurd rfl h
  | done => exact .inr rfl

/-! ### What a step is, by its event -/

theorem step_of_transaction {w : TransactionWord} {rest : List PortEvent} (h : s.pending = .transaction w :: rest) :
    step s = exec (decodeTransaction w) { s with pending := rest } := by
  simp [step, State.nextAction, h]

/-- A completion, presented or not, is the core's one step on the state without that event. -/
theorem State.completes.exists_nextAction (h : s.completes) :
    ∃ events, s.nextAction = ({ s with pending := events } : State).complete := by
  obtain ⟨-, hp | ⟨rest, hp⟩⟩ := h
  · have hnext : s.nextAction = s.complete := by simp [State.nextAction, hp]
    exact ⟨s.pending, hnext⟩
  · exact ⟨rest, by simp [State.nextAction, hp]⟩

theorem State.completes.step_of_ok {i : Instr} (h : s.completes) (hd : decodeCommand s.cmd = .ok i) :
    ∃ events, step s = exec i { s with pending := events } := by
  obtain ⟨events, hnext⟩ := h.exists_nextAction
  exact ⟨events, by simp [step, hnext, State.complete, State.busy, h.1, hd]⟩

theorem State.completes.step_of_error {w : Word} (h : s.completes)
    (hd : decodeCommand s.cmd = .error (.illegalCommand w)) :
    ∃ events, step s = .next (({ s with pending := events } : State).raise .illegalCommand w) := by
  obtain ⟨events, hnext⟩ := h.exists_nextAction
  exact ⟨events, by simp [step, hnext, State.complete, State.busy, h.1, hd]⟩

/-! ### An illegal command -/

/-- Settles O11: the word fails to decode, so the completion is one `raise`, and IllegalCommand has no effects of its
own. -/
theorem illegalCommandIsReported : Obligations.IllegalCommandIsReported := by
  intro s hcompletes hillegal
  obtain ⟨events, hstep⟩ := hcompletes.step_of_error (decodeCommand_of_not_mem_five hillegal)
  obtain ⟨hflags, htext, hstream, hout, htree, htable, hcontrol, hanswer, -⟩ :=
    State.raise_keeps_of_noEffects (s := { s with pending := events }) (e := .illegalCommand) rfl s.cmd
  exact ⟨_, hstep, State.raise_failed _ _ _, htext, hstream, hout, htree, htable, hflags, hcontrol, hanswer⟩

/-! ### How a command ends -/

/-- The ending of every command but CLEAR, in success or in error: DONE, and STICKY is not cleared. -/
structure EndsDone (before after : Status) : Prop where
  state : after.state = .done
  sticky : before.sticky = true → after.sticky = true

theorem State.succeed_endsDone {before : Status} (h : s.status.sticky = before.sticky) :
    EndsDone before s.succeed.status where
  state := rfl
  sticky := h.trans

theorem State.raise_endsDone (s : State) (before : Status) (e : CmdError) (info : Word) :
    EndsDone before (s.raise e info).status where
  state := rfl
  sticky _ := rfl

/-- Each of the four ends in `succeed`, with STICKY as it was, or in `raise`. -/
theorem endsDone_of_exec {i : Instr} (hi : i ∈ [Instr.build, .gentab, .encode, .decode]) (h : exec i s = .next t) :
    EndsDone s.status t.status := by
  simp only [List.mem_cons, List.not_mem_nil, or_false] at hi
  rcases hi with rfl | rfl | rfl | rfl
  case inl =>
    rcases execBuild_cases h with ⟨-, rfl⟩ | ⟨-, rfl⟩
    · exact s.raise_endsDone _ _ _
    · exact State.succeed_endsDone rfl
  case inr.inl =>
    rcases execGentab_cases h with ⟨-, rfl⟩ | ⟨-, rfl⟩
    · exact s.raise_endsDone _ _ _
    · exact State.succeed_endsDone rfl
  case inr.inr.inl =>
    rcases execEncode_cases h with ⟨-, rfl⟩ | ⟨-, bits, -, rfl⟩ | ⟨-, e, k, -, rfl⟩
    · exact s.raise_endsDone _ _ _
    · exact State.succeed_endsDone rfl
    · exact s.raise_endsDone _ _ _
  case inr.inr.inr =>
    rcases execDecode_cases h with ⟨-, rfl⟩ | ⟨-, xs, -, rfl⟩ | ⟨-, e, k, -, rfl⟩
    · exact s.raise_endsDone _ _ _
    · exact State.succeed_endsDone rfl
    · exact s.raise_endsDone _ _ _

/-! ### STATUS over one step -/

theorem status_of_resets (hs : step s = .next t) (h : s.resets) : t.status = Status.cleared := by
  obtain ⟨rest, hp⟩ := h
  cases (step_of_reset hp).symm.trans hs
  rfl

theorem status_of_issues {w : Word} (hs : step s = .next t) (h : s.issues w) : t.status = s.status.issued := by
  obtain ⟨hidle, v, ⟨rest, hp⟩, hv⟩ := h
  have hx := exec_wr_cmd_of_not_busy (s := { s with pending := rest }) hidle w
  rw [← hv, ← step_of_transaction hp, hs] at hx
  cases hx
  rfl

theorem status_of_completes_clear (hs : step s = .next t) (h : s.completes) (hclear : s.cmd = 0x00000005) :
    t.status = Status.cleared := by
  obtain ⟨events, hstep⟩ := h.step_of_ok (i := .clear) (by rw [hclear]; rfl)
  rw [execClear_cases (hstep.symm.trans hs)]
  rfl

/-- Any other word in CMD, legal or not, ends in DONE. -/
theorem endsDone_of_completes (hs : step s = .next t) (h : s.completes) (hne : s.cmd ≠ 0x00000005) :
    EndsDone s.status t.status := by
  cases hd : decodeCommand s.cmd with
  | ok i =>
    obtain ⟨events, hstep⟩ := h.step_of_ok hd
    exact endsDone_of_exec (s := { s with pending := events }) (decodeCommand_mem_of_ne_clear hd hne)
      (hstep.symm.trans hs)
  | error r =>
    obtain ⟨w⟩ := r
    obtain ⟨events, hstep⟩ := h.step_of_error hd
    cases hstep.symm.trans hs
    exact State.raise_endsDone _ _ _ _

/-- Between resets and completions, STATUS changes by an issue or not at all. -/
theorem status_of_host_step (hs : step s = .next t) (hreset : ¬ s.resets) (hcompletes : ¬ s.completes) :
    t.status = s.status ∨ ((∃ w, s.issues w) ∧ t.status = s.status.issued) := by
  obtain ⟨r, events, hr, ⟨w, hp, hx⟩ | ⟨hp, -⟩ | ⟨hp, hcase⟩⟩ := step_cases hs
  · have hrs : r.status = s.status := by rw [hr]
    rcases decodeTransaction_cases w with ⟨space, index, hd⟩ | ⟨space, index, wdata, hd⟩ <;> rw [hd] at hx
    · exact .inl ((execRd_status hx).trans hrs)
    · rcases execWr_status_cases hx with hkept | ⟨hidle, rfl, rfl, hissued⟩
      · exact .inl (hkept.trans hrs)
      · rw [hrs] at hidle hissued
        exact .inr ⟨⟨wdata, hidle, w, ⟨events, hp⟩, hd⟩, hissued⟩
  · exact absurd ⟨events, hp⟩ hreset
  · have hevent : s.pending = [] ∨ ∃ rest, s.pending = .completion :: rest := hp.imp And.left fun h => ⟨_, h⟩
    rcases hcase with ⟨-, rfl⟩ | ⟨hbusy, -⟩ | ⟨hbusy, -⟩
    · exact .inl (by rw [hr])
    · exact absurd ⟨hbusy, hevent⟩ hcompletes
    · exact absurd ⟨hbusy, hevent⟩ hcompletes

/-- Settles O8, the rows of the table in order: each is a fact about STATUS after that event. -/
theorem sequencingStateMachine : Obligations.SequencingStateMachine := by
  refine fun s t hs => ⟨fun hreset => ?reset, fun ⟨w, hissue⟩ => ⟨?before, ?issue⟩, fun hc hclear => ?clear,
    fun hc hne => (endsDone_of_completes hs hc hne).state, fun hreset hissue hc => ?other⟩
  case reset => rw [status_of_resets hs hreset]; rfl
  case before =>
    obtain ⟨hidle, -⟩ := hissue
    exact Phase.idle_or_done_of_ne_busy hidle
  case issue => rw [status_of_issues hs hissue]; rfl
  case clear => rw [status_of_completes_clear hs hc hclear]; rfl
  case other =>
    rcases status_of_host_step hs hreset hc with hkept | ⟨hissues, -⟩
    · rw [hkept]
    · exact absurd hissues hissue

/-! ### CLEAR -/

theorem exec_clear (s : State) : exec .clear s = .next s.clearNow.drawn := rfl

/-- STICKY is cleared by a reset and by CLEAR (10_state.md R32): every other step keeps it set. -/
theorem sticky_of_step (hs : step s = .next t) (hreset : ¬ s.resets)
    (hclear : ¬ (s.completes ∧ s.cmd = 0x00000005)) (h : s.status.sticky = true) : t.status.sticky = true := by
  by_cases hc : s.completes
  · exact (endsDone_of_completes hs hc fun hcmd => hclear ⟨hc, hcmd⟩).sticky h
  · rcases status_of_host_step hs hreset hc with ht | ⟨-, ht⟩ <;> simpa [ht] using h

/-- Settles O57: CLEAR's effects are read off `clearNow`; the other commands end in DONE; and STICKY survives every
step that is neither a reset nor the completion of CLEAR. -/
theorem clearRestoresTheRegisters : Obligations.ClearRestoresTheRegisters := by
  refine ⟨fun s => ?effects, fun s t i hi hx => ?ending, fun s t hs hset hunset => ?sticky⟩
  case effects =>
    exact ⟨_, exec_clear s, by simp [KeepsControl, KeepsPort]⟩
  case ending => simp [(endsDone_of_exec hi hx).state]
  case sticky =>
    by_contra hother
    obtain ⟨hreset, hclear⟩ := not_or.mp hother
    simp [sticky_of_step hs hreset hclear hset] at hunset

end Sys2Proof.Machine
end

section
/-! PROOF. What raising an error sets and what it leaves alone (60_exceptions.md R202). -/

namespace Sys2Proof.Machine

variable {e : CmdError}

/-- No error writes CMD, CFG, the parameters, the port or TEXT. -/
theorem State.raise_keeps_control_port_text (s : State) (e : CmdError) (info : Word) :
    KeepsControl s (s.raise e info) ∧ KeepsPort s (s.raise e info) ∧ KeepsText s (s.raise e info) := by
  simp [KeepsControl, KeepsPort, KeepsText]

/-- Only EmptyInput touches the tree, the table and their flags. -/
theorem State.raise_keeps_tree_of_ne_emptyInput (s : State) (info : Word) (h : e ≠ .emptyInput) :
    KeepsValidFlags s (s.raise e info) ∧ KeepsTree s (s.raise e info) ∧ KeepsTable s (s.raise e info) := by
  simp [KeepsValidFlags, KeepsTree, KeepsTable, errorEffects_status, errorEffects_root, errorEffects_nodeCnt,
    errorEffects_nleaf, errorEffects_freq, errorEffects_node, errorEffects_codeLen, errorEffects_codeBit, h]

/-- The data errors of ENCODE empty the stream. -/
theorem State.raise_empties_stream (s : State) (info : Word) (h : e = .symbolNotInTable ∨ e = .streamOverflow) :
    (s.raise e info).streamLen = 0 ∧ ∀ k, (s.raise e info).stream.read k = none := by
  simp [errorEffects_streamLen, errorEffects_stream, h]

theorem State.raise_keepsStream (s : State) (info : Word) (h : ¬ (e = .symbolNotInTable ∨ e = .streamOverflow)) :
    KeepsStream s (s.raise e info) := by
  simp [KeepsStream, errorEffects_streamLen, errorEffects_stream, h]

/-- The data errors of DECODE empty the output. -/
theorem State.raise_empties_out (s : State) (info : Word) (h : e = .malformedStream ∨ e = .outputOverflow) :
    (s.raise e info).outLen = 0 ∧ ∀ k, (s.raise e info).out.read k = none := by
  simp [errorEffects_outLen, errorEffects_out, h]

theorem State.raise_keepsOut (s : State) (info : Word) (h : ¬ (e = .malformedStream ∨ e = .outputOverflow)) :
    KeepsOut s (s.raise e info) := by
  simp [KeepsOut, errorEffects_outLen, errorEffects_out, h]

/-- Settles O28, group by group: each group of errors writes its own part of the state and no error writes the rest. -/
theorem errorEntryEffects : Obligations.ErrorEntryEffects := by
  intro s e info
  obtain ⟨hcontrol, hport, htext⟩ := s.raise_keeps_control_port_text e info
  refine ⟨s.raise_failed e info, hcontrol, hport, htext, ?dropsTree, s.raise_keeps_tree_of_ne_emptyInput info,
    s.raise_empties_stream info, fun h₁ h₂ => s.raise_keepsStream info (not_or.mpr ⟨h₁, h₂⟩),
    s.raise_empties_out info, fun h₁ h₂ => s.raise_keepsOut info (not_or.mpr ⟨h₁, h₂⟩)⟩
  case dropsTree =>
    rintro rfl
    exact s.raise_emptyInput_dropsTree info

end Sys2Proof.Machine
end

section
/-! PROOF. The encoder and the decoder agree (30_encoding.md R90 to R92, R102). -/

namespace Sys2Proof

open Laws.TableRow (we_getLsbD)

/-! ### From an instruction to its word and back -/

@[simp] theorem Space.ofId_id (space : Space) : Space.ofId space.id = space := by cases space <;> rfl

@[simp] theorem Space.id_ofId (v : BitVec 3) : (Space.ofId v).id = v := by revert v; decide

@[simp] theorem we_transactionWord (we : Bool) (space : Space) (index : Nat) (wdata : Word) :
    TransactionWord.we (transactionWord we space index wdata) = we := we_getLsbD we space index wdata

@[simp] theorem space_transactionWord (we : Bool) (space : Space) (index : Nat) (wdata : Word) :
    TransactionWord.space (transactionWord we space index wdata) = space := by
  rw [TransactionWord.space, transactionWord, BitVec.extractLsb'_append_eq_of_le (by decide),
    BitVec.extractLsb'_append_eq_of_le (by decide), BitVec.extractLsb'_append_eq_right, Space.ofId_id]

/-- The index field has 32 bits. -/
theorem index_transactionWord (we : Bool) (space : Space) (index : Nat) (wdata : Word) :
    TransactionWord.index (transactionWord we space index wdata) = index % 2 ^ 32 := by
  rw [TransactionWord.index, transactionWord, BitVec.extractLsb'_append_eq_of_le (by decide),
    BitVec.extractLsb'_append_eq_right, BitVec.toNat_ofNat]

@[simp] theorem wdata_transactionWord (we : Bool) (space : Space) (index : Nat) (wdata : Word) :
    TransactionWord.wdata (transactionWord we space index wdata) = wdata :=
  BitVec.extractLsb'_append_eq_right

theorem decodeTransaction_transactionWord (we : Bool) (space : Space) {index : Nat} (wdata : Word)
    (h : index < 2 ^ 32) : decodeTransaction (transactionWord we space index wdata) =
      if we then .wr space index wdata else .rd space index := by
  rw [decodeTransaction, we_transactionWord, space_transactionWord, index_transactionWord, wdata_transactionWord,
    Nat.mod_eq_of_lt h]

/-- Settles O1: the five command words are closed facts, and a transaction's fields stand side by side in its word. -/
theorem decodeInvertsEncode : Obligations.DecodeInvertsEncode := by
  intro i hi
  cases i with
  | rd space index =>
    exact congrArg Except.ok (decodeTransaction_transactionWord false space 0 (of_decide_eq_true hi))
  | wr space index wdata =>
    exact congrArg Except.ok (decodeTransaction_transactionWord true space wdata (of_decide_eq_true hi))
  | build | gentab | encode | decode | clear => rfl

/-! ### From a word to its instruction and back -/

theorem TransactionWord.index_lt (w : TransactionWord) : TransactionWord.index w < 2 ^ 32 := BitVec.isLt _

/-- The four fields make up the whole word. -/
theorem transactionWord_of_fields (w : TransactionWord) :
    transactionWord (TransactionWord.we w) (TransactionWord.space w) (TransactionWord.index w)
      (TransactionWord.wdata w) = w := by
  have hwe : BitVec.ofBool (TransactionWord.we w) = w.extractLsb' 67 1 := by
    ext i hi
    obtain rfl : i = 0 := by omega
    simp [TransactionWord.we]
  rw [transactionWord, TransactionWord.space, Space.id_ofId, TransactionWord.index, BitVec.ofNat_toNat,
    BitVec.setWidth_eq, TransactionWord.wdata, hwe,
    BitVec.extractLsb'_append_extractLsb'_eq_extractLsb' (start₂ := 67) (start₁ := 64) rfl,
    BitVec.extractLsb'_append_extractLsb'_eq_extractLsb' (start₂ := 64) (start₁ := 32) rfl,
    BitVec.extractLsb'_append_extractLsb'_eq_extractLsb' (start₂ := 32) (start₁ := 0) rfl]
  exact BitVec.extractLsb'_eq_self

/-- The mask that clears the write data keeps the bits of the other fields. -/
theorem extractLsb'_and_dataMask (w : TransactionWord) {start len : Nat} {m : BitVec len}
    (h : (0xFFFFFFFFF00000000#68).extractLsb' start len = m) :
    (w &&& 0xFFFFFFFFF00000000#68).extractLsb' start len = w.extractLsb' start len &&& m := by
  rw [BitVec.extractLsb'_and, h]

theorem transactionWord_clearedData (w : TransactionWord) :
    transactionWord (TransactionWord.we w) (TransactionWord.space w) (TransactionWord.index w) 0 =
      w &&& 0xFFFFFFFFF00000000#68 := by
  have hwe : TransactionWord.we (w &&& 0xFFFFFFFFF00000000#68) = TransactionWord.we w := by
    rw [TransactionWord.we, BitVec.getLsbD_and, show (0xFFFFFFFFF00000000#68).getLsbD 67 = true by decide,
      Bool.and_true, TransactionWord.we]
  have hspace : TransactionWord.space (w &&& 0xFFFFFFFFF00000000#68) = TransactionWord.space w := by
    rw [TransactionWord.space, extractLsb'_and_dataMask w (m := BitVec.allOnes 3) (by decide), BitVec.and_allOnes,
      TransactionWord.space]
  have hindex : TransactionWord.index (w &&& 0xFFFFFFFFF00000000#68) = TransactionWord.index w := by
    rw [TransactionWord.index, extractLsb'_and_dataMask w (m := BitVec.allOnes 32) (by decide), BitVec.and_allOnes,
      TransactionWord.index]
  have hwdata : TransactionWord.wdata (w &&& 0xFFFFFFFFF00000000#68) = 0 := by
    rw [TransactionWord.wdata, extractLsb'_and_dataMask w (m := 0) (by decide)]
    exact BitVec.and_zero
  rw [← hwe, ← hspace, ← hindex, ← hwdata, transactionWord_of_fields]

theorem decodeTransaction_wellFormed (w : TransactionWord) : (decodeTransaction w).wellFormed = true := by
  unfold decodeTransaction
  split <;> exact decide_eq_true (TransactionWord.index_lt w)

theorem encode_decodeTransaction (w : TransactionWord) : encode (decodeTransaction w) =
    .host (if TransactionWord.we w then w else w &&& 0xFFFFFFFFF00000000#68) := by
  unfold decodeTransaction
  split
  case isTrue hwe =>
    have h := transactionWord_of_fields w
    rw [hwe] at h
    exact congrArg Code.host h
  case isFalse hwe =>
    have h := transactionWord_clearedData w
    rw [Bool.eq_false_of_not_eq_true hwe] at h
    exact congrArg Code.host h

/-- Only the five words decode, each to the command it encodes. -/
theorem encode_of_decodeCommand {w : Word} {i : Instr} (h : decodeCommand w = .ok i) :
    i.wellFormed = true ∧ encode i = .cmd w := by
  have hw := ((decodeCommand_isOk_iff w).mp ⟨i, h⟩).mem_five
  simp only [List.mem_cons, List.not_mem_nil, or_false] at hw
  rcases hw with rfl | rfl | rfl | rfl | rfl <;> cases h <;> exact ⟨rfl, rfl⟩

/-- Settles O2: a command word is one of five, and a transaction word is its four fields. -/
theorem encodeInvertsDecode : Obligations.EncodeInvertsDecode := by
  intro c i h
  cases c with
  | cmd w => exact encode_of_decodeCommand h
  | host w =>
    cases h
    exact ⟨decodeTransaction_wellFormed w, encode_decodeTransaction w⟩

/-- Settles O4: each is a closed word. -/
theorem writtenOutWordsDecode : Obligations.WrittenOutWordsDecode := by
  unfold Obligations.WrittenOutWordsDecode
  decide

end Sys2Proof
end

section
/-! PROOF. One step (20_memory.md R70, 44_control.md R176, R177): it is the decoded instruction's meaning, it always
answers, and it never touches the parameters. -/

namespace Sys2Proof.Machine

variable {s t : State}

/-! ### A step, by its event -/

theorem State.complete_of_ok {i : Instr} (hb : s.status.state = .busy) (hd : decodeCommand s.cmd = .ok i) :
    s.complete = .run i s := by
  simp [State.complete, State.busy, hb, hd]

theorem State.complete_of_error {w : Word} (hb : s.status.state = .busy)
    (hd : decodeCommand s.cmd = .error (.illegalCommand w)) : s.complete = .settle (s.raise .illegalCommand w) := by
  simp [State.complete, State.busy, hb, hd]

theorem State.complete_of_not_busy (hb : s.status.state ≠ .busy) : s.complete = .settle s := by
  simp [State.complete, s.busy_eq_false_iff.mpr hb]

/-- With nothing presented, the step is the core's. -/
theorem State.nextAction_of_empty (h : s.pending = []) : s.nextAction = s.complete := by simp [State.nextAction, h]

theorem State.nextAction_of_completion {rest : List PortEvent} (h : s.pending = .completion :: rest) :
    s.nextAction = ({ s with pending := rest } : State).complete := by simp [State.nextAction, h]

theorem step_of_run {i : Instr} {r : State} (h : s.nextAction = .run i r) : step s = exec i r := by
  simp [step, h]

theorem step_of_settle {r : State} (h : s.nextAction = .settle r) : step s = .next r := by
  simp [step, h]

/-- Settles O5, event by event. -/
theorem stepRunsTheDecodedInstruction : Obligations.StepRunsTheDecodedInstruction := by
  refine ⟨fun s w rest hp => step_of_transaction hp,
    fun s i hb hd => ⟨fun hp => step_of_run ?_, fun rest hp => step_of_run ?_⟩,
    fun s w hb hd => ⟨fun hp => step_of_settle ?_, fun rest hp => step_of_settle ?_⟩,
    fun s hb => ⟨step_of_not_busy hb, fun rest hp => step_of_settle ?_⟩, fun s rest hp => step_of_reset hp⟩
  · exact (s.nextAction_of_empty hp).trans (s.complete_of_ok hb hd)
  · exact (s.nextAction_of_completion hp).trans (State.complete_of_ok hb hd)
  · exact (s.nextAction_of_empty hp).trans (s.complete_of_error hb hd)
  · exact (s.nextAction_of_completion hp).trans (State.complete_of_error hb hd)
  · exact (s.nextAction_of_completion hp).trans (State.complete_of_not_busy hb)

/-! ### A placed word -/

/-- A table word is a command word or a transaction word, by its width. -/
theorem decodeTableWord_cases {nbits w : Nat} {i : Instr} (h : decodeTableWord nbits w = some i) :
    (nbits ≤ 32 ∧ decodeCommand (BitVec.ofNat 32 w) = .ok i) ∨
    (¬ nbits ≤ 32 ∧ decodeTransaction (BitVec.ofNat 68 w) = i) := by
  unfold decodeTableWord at h
  split at h
  case isTrue hn =>
    split at h
    · split at h
      · rename_i hd; cases h; exact .inl ⟨hn, hd⟩
      · cases h
    · cases h
  case isFalse hn =>
    split at h
    · split at h
      · rename_i hd; cases h; cases hd; exact .inr ⟨hn, rfl⟩
      · cases h
    · cases h

/-- Settles O6: the placed word is in CMD with its completion next, or it is the next transaction. -/
theorem placedWordRunsNext : Obligations.PlacedWordRunsNext := by
  intro s nbits w i h
  rcases decodeTableWord_cases h with ⟨hn, hd⟩ | ⟨hn, hd⟩
  · rw [State.withFetchWord, State.placeWord, if_pos hn, if_pos hn]
    exact step_of_run ((State.nextAction_of_completion rfl).trans (State.complete_of_ok rfl hd))
  · rw [State.withFetchWord, State.placeWord, if_neg hn, if_neg hn, step_of_transaction rfl, hd]

/-! ### Every step answers -/

theorem exec_answers (i : Instr) (s : State) : ∃ t, exec i s = .next t := by
  cases i with
  | build => simp only [exec, execBuild]; split <;> exact ⟨_, rfl⟩
  | gentab => simp only [exec, execGentab]; split <;> exact ⟨_, rfl⟩
  | encode =>
    simp only [exec, execEncode]
    split
    · split <;> exact ⟨_, rfl⟩
    · exact ⟨_, rfl⟩
  | decode =>
    simp only [exec, execDecode]
    split
    · split <;> exact ⟨_, rfl⟩
    · exact ⟨_, rfl⟩
  | clear => exact ⟨_, rfl⟩
  | rd space index =>
    simp only [exec, execRd]
    split
    · exact ⟨_, rfl⟩
    · split <;> exact ⟨_, rfl⟩
  | wr space index wdata =>
    simp only [exec, execWr]
    split
    · exact ⟨_, rfl⟩
    · split
      · exact ⟨_, rfl⟩
      · split <;> exact ⟨_, rfl⟩

theorem step_answers (s : State) : ∃ t, step s = .next t := by
  cases h : s.nextAction with
  | run i r =>
    obtain ⟨t, ht⟩ := exec_answers i r
    exact ⟨t, (step_of_run h).trans ht⟩
  | settle r => exact ⟨r, step_of_settle h⟩

/-- Settles O7: every branch of every meaning is a next state. -/
theorem everyInstructionAndStepAnswers : Obligations.EveryInstructionAndStepAnswers :=
  ⟨exec_answers, step_answers⟩

/-! ### What a transaction leaves alone -/

/-- What no transaction changes: tables, OUT, flags, ERR and ERR_INFO, parameters, and what is still to come. -/
structure HostKeeps (s t : State) : Prop where
  tree : KeepsTree s t
  table : KeepsTable s t
  out : KeepsOut s t
  flags : KeepsValidFlags s t
  error : t.status.err = s.status.err ∧ t.status.sticky = s.status.sticky ∧ t.errInfo = s.errInfo
  params : t.params = s.params
  pending : t.pending = s.pending

theorem execRd_keepsBlock {space : Space} {index : Nat} (h : execRd space index s = .next t) : KeepsBlock s t := by
  rcases execRd_cases h with rfl | ⟨-, -, rfl⟩
  · exact s.accessFault_keepsBlock
  · exact s.answerWith_keepsBlock _

theorem HostKeeps.of_keepsBlock (h : KeepsBlock s t) : HostKeeps s t := by
  obtain ⟨-, -, hout, htree, htable, ⟨hstatus, hinfo⟩, ⟨-, -, hparams⟩, hpending⟩ := h
  exact ⟨htree, htable, hout, by simp [KeepsValidFlags, hstatus], by simp [hstatus, hinfo], hparams, hpending⟩

theorem State.writeReg_hostKeeps (s : State) (r : Reg) (w : Word) : HostKeeps s (s.writeReg r w) := by
  rcases s.writeReg_cases r w with h | ⟨-, h⟩ | ⟨-, h⟩ | ⟨-, -, h⟩ | ⟨-, -, h⟩ <;> rw [h]
  case inl => exact .of_keepsBlock s.accessFault_keepsBlock
  all_goals constructor <;> simp [KeepsTree, KeepsTable, KeepsOut, KeepsValidFlags]

theorem State.writeElement_hostKeeps (s : State) (space : Space) (index : Nat) (w : Word) :
    HostKeeps s (s.writeElement space index w) := by
  rcases s.writeElement_cases space index w with h | ⟨r, -, -, h⟩ | ⟨-, h⟩ | ⟨-, h⟩ <;> rw [h]
  case inl => exact .of_keepsBlock s.accessFault_keepsBlock
  case inr.inl => exact s.writeReg_hostKeeps r w
  all_goals constructor <;> simp [KeepsTree, KeepsTable, KeepsOut, KeepsValidFlags]

theorem execWr_hostKeeps {space : Space} {index : Nat} {wdata : Word} (h : execWr space index wdata s = .next t) :
    HostKeeps s t := by
  rcases execWr_cases h with rfl | ⟨-, -, -, rfl⟩
  · exact .of_keepsBlock s.accessFault_keepsBlock
  · exact s.writeElement_hostKeeps space index wdata

theorem hostKeeps_of_transaction {w : TransactionWord} (h : exec (decodeTransaction w) s = .next t) :
    HostKeeps s t := by
  rcases decodeTransaction_cases w with ⟨space, index, hd⟩ | ⟨space, index, wdata, hd⟩ <;> rw [hd] at h
  · exact .of_keepsBlock (execRd_keepsBlock h)
  · exact execWr_hostKeeps h

/-- Settles O59: such a step is a transaction, or the completion that a block not BUSY ignores. -/
theorem onlyCompletionsChangeResults : Obligations.OnlyCompletionsChangeResults := by
  intro s t hs hcompletes hresets
  have hkeeps : HostKeeps { s with pending := t.pending } t := by
    obtain ⟨r, events, rfl, ⟨w, -, hx⟩ | ⟨hp, -⟩ | ⟨hp, ⟨-, rfl⟩ | ⟨hb, -⟩ | ⟨hb, -⟩⟩⟩ := step_cases hs
    · have hx := hostKeeps_of_transaction hx
      rwa [hx.pending]
    · exact absurd ⟨events, hp⟩ hresets
    · constructor <;> simp [KeepsTree, KeepsTable, KeepsOut, KeepsValidFlags]
    · exact absurd ⟨hb, hp.imp And.left fun h => ⟨events, h⟩⟩ hcompletes
    · exact absurd ⟨hb, hp.imp And.left fun h => ⟨events, h⟩⟩ hcompletes
  exact ⟨hkeeps.tree, hkeeps.table, hkeeps.out, hkeeps.flags, hkeeps.error⟩

/-! ### A command in flight ends (R177) -/

theorem core_run_succ {k : Nat} (h : step s = .next t) : core.run (k + 1) s = core.run k t := by
  have hs : core.step s = .next t := h
  simp [Host.Core.run, hs]

theorem State.completes.ends (h : s.completes) (hs : step s = .next t) : t.status.state ≠ .busy := by
  by_cases hclear : s.cmd = 0x00000005
  · rw [status_of_completes_clear hs h hclear]; decide
  · rw [(endsDone_of_completes hs h hclear).state]; decide

/-- While BUSY a transaction leaves the command in flight, and the port with one event less. -/
theorem State.answers.keeps_busy {w : TransactionWord} {rest : List PortEvent}
    (hp : s.pending = .transaction w :: rest) (hb : s.status.state = .busy) (hs : step s = .next t) :
    t.status.state = .busy ∧ t.pending = rest := by
  rw [step_of_transaction hp] at hs
  refine ⟨?_, (hostKeeps_of_transaction hs).pending⟩
  rcases decodeTransaction_cases w with ⟨space, index, hd⟩ | ⟨space, index, wdata, hd⟩ <;> rw [hd] at hs
  · rw [execRd_status hs, hb]
  · rcases execWr_status_cases hs with hkept | ⟨hidle, -⟩
    · rw [hkept, hb]
    · exact absurd hb hidle

/-- Settles O9, by induction on what is presented: a transaction uses up one event, and any other event, or none, ends
the command. -/
theorem busyEndsWithinPendingEvents : Obligations.BusyEndsWithinPendingEvents := by
  have ends_in_one : ∀ s : State, (∀ t, step s = .next t → t.status.state ≠ .busy) →
      ∃ k ≤ s.pending.length + 1, ∃ t : State, core.run k s = .next t ∧ t.status.state ≠ .busy := by
    intro s h
    obtain ⟨t, ht⟩ := step_answers s
    exact ⟨1, by omega, t, core_run_succ ht, h t ht⟩
  intro s hb
  induction hp : s.pending generalizing s with
  | nil => exact hp ▸ ends_in_one s fun t => State.completes.ends ⟨hb, .inl hp⟩
  | cons event rest ih =>
    cases event with
    | completion => exact hp ▸ ends_in_one s fun t => State.completes.ends ⟨hb, .inr ⟨rest, hp⟩⟩
    | reset => exact hp ▸ ends_in_one s fun t hs => by rw [status_of_resets hs ⟨rest, hp⟩]; decide
    | transaction w =>
      obtain ⟨r, hr⟩ := step_answers s
      obtain ⟨hbusy, hpending⟩ := State.answers.keeps_busy hp hb hr
      obtain ⟨k, hk, t, hrun, hdone⟩ := ih r hbusy hpending
      exact ⟨k + 1, by simpa using hk, t, (core_run_succ hr).trans hrun, hdone⟩

/-! ### The parameters -/

theorem exec_params {i : Instr} (h : exec i s = .next t) : t.params = s.params := by
  cases i with
  | build => rcases execBuild_cases h with ⟨-, rfl⟩ | ⟨-, rfl⟩ <;> simp
  | gentab => rcases execGentab_cases h with ⟨-, rfl⟩ | ⟨-, rfl⟩ <;> simp
  | encode => rcases execEncode_cases h with ⟨-, rfl⟩ | ⟨-, bits, -, rfl⟩ | ⟨-, e, k, -, rfl⟩ <;> simp
  | decode => rcases execDecode_cases h with ⟨-, rfl⟩ | ⟨-, xs, -, rfl⟩ | ⟨-, e, k, -, rfl⟩ <;> simp
  | clear => rw [execClear_cases h]; rfl
  | rd space index => exact (HostKeeps.of_keepsBlock (execRd_keepsBlock h)).params
  | wr space index wdata => exact (execWr_hostKeeps h).params

/-- Settles O16: neither an instruction, nor a reset, nor an error writes them. -/
theorem paramsNeverChange : Obligations.ParamsNeverChange := by
  intro s t hs
  obtain ⟨r, events, rfl, ⟨w, -, hx⟩ | ⟨-, rfl⟩ | ⟨-, ⟨-, rfl⟩ | ⟨-, i, -, hx⟩ | ⟨-, w, -, rfl⟩⟩⟩ := step_cases hs
  · exact (exec_params hx :)
  · rfl
  · rfl
  · exact (exec_params hx :)
  · simp

/-! ### The frames of the commands (10_state.md R42) -/

theorem execBuild_frame (h : execBuild s = .next t) :
    KeepsText s t ∧ KeepsStream s t ∧ KeepsOut s t ∧ KeepsControl s t ∧ KeepsPort s t := by
  rcases execBuild_cases h with ⟨-, rfl⟩ | ⟨-, rfl⟩
  · exact s.raise_emptyInput_keeps 0
  · simp [KeepsText, KeepsStream, KeepsOut, KeepsControl, KeepsPort]

theorem execGentab_frame (h : execGentab s = .next t) : KeepsText s t ∧ KeepsStream s t ∧ KeepsOut s t ∧
    KeepsTree s t ∧ t.status.treeValid = s.status.treeValid ∧ KeepsControl s t ∧ KeepsPort s t := by
  rcases execGentab_cases h with ⟨-, rfl⟩ | ⟨-, rfl⟩
  · obtain ⟨⟨hvalid, -⟩, htext, hstream, hout, htree, -, hcontrol, hport⟩ := s.raise_noTree_keeps 0
    exact ⟨htext, hstream, hout, htree, hvalid, hcontrol, hport⟩
  · simp [KeepsText, KeepsStream, KeepsOut, KeepsTree, KeepsControl, KeepsPort]

/-- No error of ENCODE is EmptyInput or an error of DECODE. -/
theorem State.raise_encodeFrame (s : State) {e : CmdError} (info : Word)
    (h : e = .noTable ∨ e = .symbolNotInTable ∨ e = .streamOverflow) :
    KeepsText s (s.raise e info) ∧ KeepsOut s (s.raise e info) ∧ KeepsTree s (s.raise e info) ∧
    KeepsTable s (s.raise e info) ∧ KeepsValidFlags s (s.raise e info) ∧ KeepsControl s (s.raise e info) ∧
    KeepsPort s (s.raise e info) := by
  obtain ⟨hcontrol, hport, htext⟩ := s.raise_keeps_control_port_text e info
  obtain ⟨hflags, htree, htable⟩ := s.raise_keeps_tree_of_ne_emptyInput info (e := e) (by rintro rfl; simp at h)
  exact ⟨htext, s.raise_keepsOut info (by rintro (rfl | rfl) <;> simp at h), htree, htable, hflags, hcontrol, hport⟩

theorem State.streamWritten_frame (s : State) (bits : List Bit) :
    KeepsText s (s.streamWritten bits).succeed ∧ KeepsOut s (s.streamWritten bits).succeed ∧
    KeepsTree s (s.streamWritten bits).succeed ∧ KeepsTable s (s.streamWritten bits).succeed ∧
    KeepsValidFlags s (s.streamWritten bits).succeed ∧ KeepsControl s (s.streamWritten bits).succeed ∧
    KeepsPort s (s.streamWritten bits).succeed := by
  simp [KeepsText, KeepsOut, KeepsTree, KeepsTable, KeepsValidFlags, KeepsControl, KeepsPort]

theorem execEncode_frame (h : execEncode s = .next t) : KeepsText s t ∧ KeepsOut s t ∧ KeepsTree s t ∧
    KeepsTable s t ∧ KeepsValidFlags s t ∧ KeepsControl s t ∧ KeepsPort s t := by
  rcases execEncode_cases h with ⟨-, rfl⟩ | ⟨-, bits, -, rfl⟩ | ⟨-, e, k, he, rfl⟩
  · exact s.raise_encodeFrame 0 (.inl rfl)
  · exact s.streamWritten_frame bits
  · exact s.raise_encodeFrame _ (.inr (State.encoding_error he))

/-- No error of DECODE is EmptyInput or an error of ENCODE. -/
theorem State.raise_decodeFrame (s : State) {e : CmdError} (info : Word)
    (h : e = .noTree ∨ e = .malformedStream ∨ e = .outputOverflow) :
    KeepsText s (s.raise e info) ∧ KeepsStream s (s.raise e info) ∧ KeepsTree s (s.raise e info) ∧
    KeepsTable s (s.raise e info) ∧ KeepsValidFlags s (s.raise e info) ∧ KeepsControl s (s.raise e info) ∧
    KeepsPort s (s.raise e info) := by
  obtain ⟨hcontrol, hport, htext⟩ := s.raise_keeps_control_port_text e info
  obtain ⟨hflags, htree, htable⟩ := s.raise_keeps_tree_of_ne_emptyInput info (e := e) (by rintro rfl; simp at h)
  exact ⟨htext, s.raise_keepsStream info (by rintro (rfl | rfl) <;> simp at h), htree, htable, hflags, hcontrol, hport⟩

theorem State.outWritten_frame (s : State) (xs : List Symbol) :
    KeepsText s (s.outWritten xs).succeed ∧ KeepsStream s (s.outWritten xs).succeed ∧
    KeepsTree s (s.outWritten xs).succeed ∧ KeepsTable s (s.outWritten xs).succeed ∧
    KeepsValidFlags s (s.outWritten xs).succeed ∧ KeepsControl s (s.outWritten xs).succeed ∧
    KeepsPort s (s.outWritten xs).succeed := by
  simp [KeepsText, KeepsStream, KeepsTree, KeepsTable, KeepsValidFlags, KeepsControl, KeepsPort]

theorem execDecode_frame (h : execDecode s = .next t) : KeepsText s t ∧ KeepsStream s t ∧ KeepsTree s t ∧
    KeepsTable s t ∧ KeepsValidFlags s t ∧ KeepsControl s t ∧ KeepsPort s t := by
  rcases execDecode_cases h with ⟨-, rfl⟩ | ⟨-, xs, -, rfl⟩ | ⟨-, e, k, he, rfl⟩
  · exact s.raise_decodeFrame 0 (.inl rfl)
  · exact s.outWritten_frame xs
  · exact s.raise_decodeFrame _ (.inr (State.decoding_error he))

/-- Settles O58, command by command and path by path. -/
theorem commandFrames : Obligations.CommandFrames :=
  fun _ _ => ⟨execBuild_frame, execGentab_frame, execEncode_frame, execDecode_frame⟩

end Sys2Proof.Machine
end

section
/-! PROOF. The host transactions (20_memory.md R61 to R64, 60_exceptions.md R195): when they fault, what a RD answers,
what a WR stores. -/

namespace Sys2Proof

/-! ### Legal indices (R61) and write rights (R64) -/

theorem Reg.ofNumber?_isSome_iff (n : Nat) : (Reg.ofNumber? n).isSome = true ↔ n ≤ 9 := by
  unfold Reg.ofNumber?
  split
  case h_11 h0 h1 h2 h3 h4 h5 h6 h7 h8 h9 =>
    rw [imp_false] at h0 h1 h2 h3 h4 h5 h6 h7 h8 h9
    simp only [Option.isSome_none, Bool.false_eq_true, false_iff]
    omega
  all_goals simp

theorem legalIndex_node_iff (p : Params) (index : Nat) : legalIndex p .node index = true ↔
    ∃ i f, index = 8 * i + f ∧ i < p.maxNode ∧ f ≤ 4 := by
  simp only [legalIndex, Bool.and_eq_true, decide_eq_true_eq]
  constructor
  · intro h
    exact ⟨index / 8, index % 8, by omega, h.1, by omega⟩
  · rintro ⟨i, f, rfl, hi, hf⟩
    constructor <;> omega

/-- Settles O20: NODE is the one space whose index has two parts. -/
theorem legalIndexTable : Obligations.LegalIndexTable := by
  intro p index
  exact ⟨Reg.ofNumber?_isSome_iff index, decide_eq_true_iff, decide_eq_true_iff, decide_eq_true_iff,
    decide_eq_true_iff, legalIndex_node_iff p index, decide_eq_true_iff, decide_eq_true_iff⟩

theorem hostWritable_reg_iff (n : Nat) : hostWritable .reg n = true ↔ n ∈ [0, 2, 3, 4] := by
  by_cases h : n ≤ 9
  · interval_cases n <;> decide
  · have hnone : Reg.ofNumber? n = none := by
      rw [← Option.not_isSome_iff_eq_none, Reg.ofNumber?_isSome_iff]; exact h
    have hmem : n ∉ [0, 2, 3, 4] := by simp only [List.mem_cons, List.not_mem_nil, or_false]; omega
    simp only [hostWritable, hnone, hmem, Bool.false_eq_true]

theorem hostWritable_iff (space : Space) (index : Nat) : hostWritable space index = true ↔
    space = .text ∨ space = .stream ∨ (space = .reg ∧ index ∈ [0, 2, 3, 4]) := by
  cases space
  case reg => simpa using hostWritable_reg_iff index
  all_goals simp [hostWritable]

end Sys2Proof

namespace Sys2Proof.Machine

variable {s t : State} {space : Space} {index : Nat}

/-! ### RD -/

/-- A RD that may be answered: the block is not BUSY, or STATUS is read. -/
theorem exec_rd_of_legal (hb : s.status.state ≠ .busy ∨ (space = .reg ∧ index = 1))
    (hl : legalIndex s.params space index = true) :
    exec (.rd space index) s = .next (s.answerWith (s.element space index)) := by
  have hfree : (s.busy && !(decide (space = .reg) && decide (index = 1))) = false := by
    rcases hb with hb | ⟨rfl, rfl⟩
    · simp [s.busy_eq_false_iff.mpr hb]
    · simp
  rw [exec, execRd, hfree, hl]
  rfl

theorem exec_rd_of_fault (h : (s.status.state = .busy ∧ ¬ (space = .reg ∧ index = 1)) ∨
    legalIndex s.params space index = false) : exec (.rd space index) s = .next s.accessFault := by
  rcases h with ⟨hb, hne⟩ | hl
  · have hheld : (s.busy && !(decide (space = .reg) && decide (index = 1))) = true := by
      rw [s.busy_iff.mpr hb, Bool.true_and, Bool.not_eq_true', ← Bool.decide_and]
      exact decide_eq_false hne
    rw [exec, execRd, hheld]
    rfl
  · simp [exec, execRd, hl]

/-- A RD of a legal element while not BUSY answers the element and has no effect. -/
theorem rd_answers {w : Word} (hb : s.status.state ≠ .busy) (hl : legalIndex s.params space index = true)
    (hw : s.element space index = w) : ∃ t, exec (.rd space index) s = .next t ∧
      t.answer = some { fault := false, rdata := w } ∧ KeepsBlock s t :=
  ⟨_, exec_rd_of_legal (.inl hb) hl, by simp [hw], s.answerWith_keepsBlock _⟩

theorem rd_faults (h : (s.status.state = .busy ∧ ¬ (space = .reg ∧ index = 1)) ∨
    legalIndex s.params space index = false) : ∃ t r, exec (.rd space index) s = .next t ∧
      t.answer = some { fault := true, rdata := r } ∧ KeepsBlock s t :=
  ⟨_, _, exec_rd_of_fault h, rfl, s.accessFault_keepsBlock⟩

/-- Settles O21: the two causes of a fault are the two tests of R63. -/
theorem readFaultsExactly : Obligations.ReadFaultsExactly := by
  intro s space index
  by_cases hfault : (s.status.state = .busy ∧ ¬ (space = .reg ∧ index = 1)) ∨ legalIndex s.params space index = false
  · obtain ⟨t, r, hx, ha, hk⟩ := rd_faults hfault
    exact ⟨t, _, hx, ha, iff_of_true rfl hfault, hk⟩
  · obtain ⟨hfree, hlegal⟩ := not_or.mp hfault
    have hb : s.status.state ≠ .busy ∨ (space = .reg ∧ index = 1) := by tauto
    exact ⟨_, _, exec_rd_of_legal hb (by simpa using hlegal), rfl, iff_of_false (by simp) hfault,
      s.answerWith_keepsBlock _⟩

theorem Cfg.word_eq (c : Cfg) : c.word = if c.legacyCd then 1 else 0 := by
  obtain ⟨flag⟩ := c
  cases flag <;> decide

/-- Settles O18: register by register, and no register from 10 on. -/
theorem registerReads : Obligations.RegisterReads := by
  refine fun s hb => ⟨?_, fun n hn => rd_faults (.inr ?_)⟩
  · simp only [List.forall_mem_cons, List.not_mem_nil, false_imp_iff, implies_true, and_true]
    refine ⟨rd_answers hb rfl rfl, rd_answers hb rfl rfl, rd_answers hb rfl s.cfg.word_eq, ?_⟩
    exact ⟨rd_answers hb rfl rfl, rd_answers hb rfl rfl, rd_answers hb rfl rfl, rd_answers hb rfl rfl,
      rd_answers hb rfl rfl, rd_answers hb rfl rfl, rd_answers hb rfl rfl⟩
  · have hillegal : ¬ n ≤ 9 := by omega
    simpa [legalIndex] using (Reg.ofNumber?_isSome_iff n).not.mpr hillegal

/-! ### The element a RD answers, where it holds a value (10_state.md R33, R36, R37) -/

theorem State.element_node (i f : Nat) (hf : f < 8) :
    s.element .node (8 * i + f) = (s.hostNode i).field s.params f := by
  have hslot : (8 * i + f) / 8 = i := by omega
  have hfield : (8 * i + f) % 8 = f := by omega
  simp [State.element, hslot, hfield]

theorem State.hostNode_of_read {i : Nat} {n : Node} (hv : s.status.treeValid = true) (hi : i < s.nodeCnt.toNat)
    (hn : s.node.read i = some n) : s.hostNode i = n := by
  simp [State.hostNode, State.nodeAt, hv, hi, hn]

theorem State.element_codeBit {x i v : Nat} {b : Bit} (hv : s.status.tableValid = true) (hi : i < s.params.alpha)
    (hlen : s.codeLen.read x = some v) (hiv : i < v) (hb : s.codeBit.read (x * s.params.alpha + i) = some b) :
    s.element .codeBit (x * s.params.alpha + i) = bitWord b := by
  have hrow : (x * s.params.alpha + i) / s.params.alpha = x := by
    rw [Nat.mul_comm, Nat.mul_add_div (by omega), Nat.div_eq_of_lt hi, Nat.add_zero]
  have hcol : (x * s.params.alpha + i) % s.params.alpha = i := by
    rw [Nat.mul_comm, Nat.mul_add_mod, Nat.mod_eq_of_lt hi]
  simp [State.element, State.hostCodeBit, State.codeLenAt, State.codeBitAt, hv, hrow, hcol, hlen, hiv, hb]

/-- Settles O19, space by space. -/
theorem elementReads : Obligations.ElementReads := by
  refine fun s hb => ⟨fun i hi v hv => ?text, fun i hi b hv => ?stream, fun i hi v hv => ?out,
    fun htree => ⟨fun x hx v hv => ?freq, fun i hi hcnt n hn => ?node⟩,
    fun htable => ⟨fun x hx v hv => ?codeLen, fun x hx i hi v b hlen hiv hbit => ?codeBit⟩⟩
  case text => exact rd_answers hb (decide_eq_true hi) (by simp [State.element, State.textAt, hv])
  case stream => exact rd_answers hb (decide_eq_true hi) (by simp [State.element, State.streamAt, bitWord, hv])
  case out => exact rd_answers hb (decide_eq_true hi) (by simp [State.element, State.outAt, hv])
  case freq =>
    exact rd_answers hb (decide_eq_true hx) (by simp [State.element, State.hostFreq, State.freqAt, htree, hv])
  case node =>
    have answers : ∀ f ≤ 4, ∃ t, exec (.rd .node (8 * i + f)) s = .next t ∧
        t.answer = some { fault := false, rdata := n.field s.params f } ∧ KeepsBlock s t := fun f hf =>
      rd_answers hb ((legalIndex_node_iff _ _).mpr ⟨i, f, rfl, hi, hf⟩)
        (by rw [s.element_node i f (by omega), s.hostNode_of_read htree hcnt hn])
    simp only [List.forall_mem_cons, List.not_mem_nil, false_imp_iff, implies_true, and_true]
    exact ⟨answers 0 (by omega), answers 1 (by omega), answers 2 (by omega), answers 3 (by omega),
      answers 4 (by omega)⟩
  case codeLen =>
    exact rd_answers hb (decide_eq_true hx) (by simp [State.element, State.hostCodeLen, State.codeLenAt, htable, hv])
  case codeBit =>
    have hlegal : x * s.params.alpha + i < s.params.alpha * s.params.alpha := by nlinarith
    exact rd_answers hb (decide_eq_true hlegal) (s.element_codeBit htable hi hlen hiv hbit)

/-- Settles O10: while BUSY the one RD that is not held up is that of STATUS, and every WR is. -/
theorem busyAdmitsOnlyStatusReads : Obligations.BusyAdmitsOnlyStatusReads := by
  refine fun s hb => ⟨⟨?code, ?status⟩, fun space index hne => rd_faults (.inl ⟨hb, hne⟩), fun space index wdata => ?wr⟩
  case code =>
    rw [Status.word, hb]
    exact BitVec.extractLsb'_append_eq_right
  case status =>
    exact ⟨_, exec_rd_of_legal (.inr ⟨rfl, rfl⟩) rfl, rfl, s.answerWith_keepsBlock _⟩
  case wr => exact ⟨_, _, exec_wr_of_busy hb space index wdata, rfl, s.accessFault_keepsBlock⟩

/-! ### WR -/

theorem exec_wr_of_allowed (wdata : Word) (hb : s.status.state ≠ .busy) (hl : legalIndex s.params space index = true)
    (hw : hostWritable space index = true) :
    exec (.wr space index wdata) s = .next (s.writeElement space index wdata) := by
  simp [exec, execWr, s.busy_eq_false_iff.mpr hb, hl, hw]

theorem exec_wr_of_fault (wdata : Word) (h : s.status.state = .busy ∨ legalIndex s.params space index = false ∨
    hostWritable space index = false) : exec (.wr space index wdata) s = .next s.accessFault := by
  rcases h with hb | hl | hw
  · exact exec_wr_of_busy hb space index wdata
  · simp [exec, execWr, hl]
  · simp [exec, execWr, hw]

/-- The length a WR would leave in TEXT_LEN or STREAM_LEN is above the capacity (R64 step 4). -/
def ExceedsCapacity (p : Params) (space : Space) (index : Nat) (wdata : Word) : Prop :=
  (space = .reg ∧ index = 3 ∧ wdata.toNat > p.maxText) ∨ (space = .reg ∧ index = 4 ∧ wdata.toNat > p.maxStream)

/-- A WR that is let through is refused or acknowledged, and refused exactly for a length above the capacity. -/
theorem State.writeElement_fault_iff (wdata : Word) (hw : hostWritable space index = true) :
    (s.writeElement space index wdata = s.accessFault ∧ ExceedsCapacity s.params space index wdata) ∨
    ((∃ r, (s.writeElement space index wdata).answer = some { fault := false, rdata := r }) ∧
      ¬ ExceedsCapacity s.params space index wdata) := by
  rcases (hostWritable_iff space index).mp hw with rfl | rfl | ⟨rfl, hindex⟩
  · exact .inr ⟨⟨_, rfl⟩, by simp [ExceedsCapacity]⟩
  · exact .inr ⟨⟨_, rfl⟩, by simp [ExceedsCapacity]⟩
  · simp only [List.mem_cons, List.not_mem_nil, or_false] at hindex
    rcases hindex with rfl | rfl | rfl | rfl
    · exact .inr ⟨⟨_, rfl⟩, by simp [ExceedsCapacity]⟩
    · exact .inr ⟨⟨_, rfl⟩, by simp [ExceedsCapacity]⟩
    · by_cases hcap : wdata.toNat > s.params.maxText
      · exact .inl ⟨if_pos hcap, .inl ⟨rfl, rfl, hcap⟩⟩
      · have hwrite : s.writeElement .reg 3 wdata = { s with textLen := wdata }.acknowledge := if_neg hcap
        exact .inr ⟨⟨_, by rw [hwrite]; rfl⟩, by simpa [ExceedsCapacity] using hcap⟩
    · by_cases hcap : wdata.toNat > s.params.maxStream
      · exact .inl ⟨if_pos hcap, .inr ⟨rfl, rfl, hcap⟩⟩
      · have hwrite : s.writeElement .reg 4 wdata = { s with streamLen := wdata }.acknowledge := if_neg hcap
        exact .inr ⟨⟨_, by rw [hwrite]; rfl⟩, by simpa [ExceedsCapacity] using hcap⟩

/-- Settles O22: the first three causes are the tests of R64 in order, the fourth is that of the two lengths. -/
theorem writeFaultsExactly : Obligations.WriteFaultsExactly := by
  intro s space index wdata
  rw [← hostWritable_iff, Bool.not_eq_true]
  by_cases hheld : s.status.state = .busy ∨ legalIndex s.params space index = false ∨ hostWritable space index = false
  · exact ⟨_, _, exec_wr_of_fault wdata hheld, rfl, iff_of_true rfl (by tauto), fun _ => s.accessFault_keepsBlock⟩
  · have hb : s.status.state ≠ .busy := by tauto
    have hl : legalIndex s.params space index = true := by rw [← Bool.not_eq_false]; tauto
    have hw : hostWritable space index = true := by rw [← Bool.not_eq_false]; tauto
    rcases s.writeElement_fault_iff wdata hw with ⟨hfault, hcap⟩ | ⟨⟨r, hr⟩, hcap⟩
    · exact ⟨_, _, exec_wr_of_allowed wdata hb hl hw, by rw [hfault]; rfl, iff_of_true rfl (.inr (.inr (.inr hcap))),
        fun _ => hfault ▸ s.accessFault_keepsBlock⟩
    · refine ⟨_, _, exec_wr_of_allowed wdata hb hl hw, hr, iff_of_false (by simp) ?_, by simp⟩
      unfold ExceedsCapacity at hcap
      tauto

theorem bitWord_getLsbD (w : Word) : bitWord (w.getLsbD 0) = w &&& 1 := by
  have hone : (1 : Word) = BitVec.twoPow 32 0 := by decide
  rw [bitWord, hone, BitVec.and_twoPow]
  rfl

/-- Settles O23: one element of TEXT is written, with the bits the element has. -/
theorem writeTextThenRead : Obligations.WriteTextThenRead := by
  intro s i w hb hi
  have hlegal : legalIndex s.params .text i = true := decide_eq_true hi
  refine ⟨_, _, exec_wr_of_allowed w hb hlegal rfl, rfl, Memory.read_write_same _ _ _,
    fun j hj => Memory.read_write_other _ _ hj, rfl, ⟨rfl, fun _ => rfl⟩, ⟨rfl, fun _ => rfl⟩,
    ⟨rfl, rfl, rfl, fun _ => rfl, fun _ => rfl⟩, ⟨fun _ => rfl, fun _ => rfl⟩, ⟨rfl, rfl⟩, ⟨rfl, rfl, rfl⟩, rfl, ?_⟩
  refine ⟨_, exec_rd_of_legal (.inl hb) hlegal, ?_⟩
  simp [State.element, State.textAt, State.writeElement]

/-- Settles O24: one element of STREAM is written, with bit 0. -/
theorem writeStreamThenRead : Obligations.WriteStreamThenRead := by
  intro s i w hb hi
  have hlegal : legalIndex s.params .stream i = true := decide_eq_true hi
  refine ⟨_, _, exec_wr_of_allowed w hb hlegal rfl, rfl, Memory.read_write_same _ _ _,
    fun j hj => Memory.read_write_other _ _ hj, rfl, ⟨rfl, fun _ => rfl⟩, ⟨rfl, fun _ => rfl⟩,
    ⟨rfl, rfl, rfl, fun _ => rfl, fun _ => rfl⟩, ⟨fun _ => rfl, fun _ => rfl⟩, ⟨rfl, rfl⟩, ⟨rfl, rfl, rfl⟩, rfl, ?_⟩
  refine ⟨_, exec_rd_of_legal (.inl hb) hlegal, ?_⟩
  rw [← bitWord_getLsbD]
  simp [State.element, State.streamAt, State.writeElement]

/-- Settles O25: CFG keeps one bit, a length within its capacity is stored whole. -/
theorem writeConfigurationAndLengths : Obligations.WriteConfigurationAndLengths := by
  refine fun s w hb => ⟨?cfg, fun hcap => ?textLen, fun hcap => ?streamLen⟩
  case cfg =>
    refine ⟨_, _, exec_wr_of_allowed w hb rfl rfl, rfl, ?_, ?_⟩
    · rw [Cfg.word_eq, ← bitWord_getLsbD]; rfl
    · simp [State.writeElement, Reg.ofNumber?, State.writeReg, KeepsText, KeepsStream, KeepsOut, KeepsTree, KeepsTable,
        KeepsStatus]
  case textLen =>
    have hwrite : s.writeElement .reg 3 w = { s with textLen := w }.acknowledge := if_neg (by omega)
    refine ⟨_, _, exec_wr_of_allowed w hb rfl rfl, by rw [hwrite]; rfl, ?_⟩
    simp [hwrite, KeepsStream, KeepsOut, KeepsTree, KeepsTable, KeepsStatus, KeepsControl]
  case streamLen =>
    have hwrite : s.writeElement .reg 4 w = { s with streamLen := w }.acknowledge := if_neg (by omega)
    refine ⟨_, _, exec_wr_of_allowed w hb rfl rfl, by rw [hwrite]; rfl, ?_⟩
    simp [hwrite, KeepsText, KeepsOut, KeepsTree, KeepsTable, KeepsStatus, KeepsControl]

/-! ### The STATUS word (10_state.md R22) -/

/-- Each field is found where R22 puts it. -/
theorem Status.word_fields (st : Status) :
    st.word.extractLsb' 0 2 = st.state.code ∧
    st.word.getLsbD 2 = st.treeValid ∧ st.word.getLsbD 3 = st.tableValid ∧ st.word.getLsbD 4 = st.sticky ∧
    st.word.extractLsb' 5 3 = 0 ∧ st.word.extractLsb' 8 8 = errField st.err ∧ st.word.extractLsb' 16 16 = 0 := by
  unfold Status.word
  refine ⟨BitVec.extractLsb'_append_eq_right, ?_, ?_, ?_, ?_, ?_, ?_⟩
  · rw [BitVec.getLsbD_append, BitVec.getLsbD_append]
    simp
  · rw [BitVec.getLsbD_append, BitVec.getLsbD_append, BitVec.getLsbD_append]
    simp
  · rw [BitVec.getLsbD_append, BitVec.getLsbD_append, BitVec.getLsbD_append, BitVec.getLsbD_append]
    simp
  · rw [BitVec.extractLsb'_append_eq_of_le (by decide), BitVec.extractLsb'_append_eq_of_le (by decide),
      BitVec.extractLsb'_append_eq_of_le (by decide), BitVec.extractLsb'_append_eq_of_le (by decide),
      BitVec.extractLsb'_append_eq_right]
    rfl
  · rw [BitVec.extractLsb'_append_eq_of_le (by decide), BitVec.extractLsb'_append_eq_of_le (by decide),
      BitVec.extractLsb'_append_eq_of_le (by decide), BitVec.extractLsb'_append_eq_of_le (by decide),
      BitVec.extractLsb'_append_eq_of_le (by decide), BitVec.extractLsb'_append_eq_right]
  · rw [BitVec.extractLsb'_append_eq_of_le (by decide), BitVec.extractLsb'_append_eq_of_le (by decide),
      BitVec.extractLsb'_append_eq_of_le (by decide), BitVec.extractLsb'_append_eq_of_le (by decide),
      BitVec.extractLsb'_append_eq_of_le (by decide), BitVec.extractLsb'_append_eq_of_le (by decide)]
    exact BitVec.extractLsb'_eq_self

/-- Settles O27: the fields stand side by side in the word, and the codes are constants. -/
theorem statusWordLayout : Obligations.StatusWordLayout :=
  ⟨Status.word_fields, ⟨rfl, rfl, rfl⟩, rfl, rfl⟩

end Sys2Proof.Machine
end

section
/-! PROOF. The canonical form of the memories (10_state.md R47): every operation keeps it. -/

namespace Sys2Proof.Machine

variable {s t : State}

theorem Memory.wf_nil {α : Type} : Memory.wf ([] : Memory α) := List.Pairwise.nil

theorem wf_countFrequencies (alpha : Nat) (text : List Symbol) : Memory.wf (countFrequencies alpha text) :=
  List.foldlRecOn text countSymbol (motive := fun freq => Memory.wf freq) (Memory.wf_table alpha fun _ => 0)
    fun freq h _ _ => Memory.wf_write freq _ _ h

/-- Both tables of GENTAB are canonical. -/
def CodeTables.Canonical (t : CodeTables) : Prop := Memory.wf t.codeLen ∧ Memory.wf t.codeBit

theorem emptyTables_canonical (alpha : Nat) : (emptyTables alpha).Canonical :=
  ⟨Memory.wf_table alpha fun _ => 0, Memory.wf_nil⟩

theorem CodeTables.Canonical.setCode {tables : CodeTables} (h : tables.Canonical) (alpha : Nat)
    (entry : Symbol × List Bit) : (setCode alpha tables entry).Canonical :=
  ⟨Memory.wf_write _ _ _ h.1, Memory.wf_writeAll _ _ _ h.2⟩

theorem State.codeTables_canonical (s : State) : s.codeTables.Canonical :=
  List.foldlRecOn s.codeCalls _ (motive := CodeTables.Canonical) (emptyTables_canonical _)
    fun _ h _ _ => h.setCode _ _

namespace State.Canonical

/-- An error empties whole memories (60_exceptions.md R203). -/
theorem raise (h : s.Canonical) (e : CmdError) (info : Word) : (s.raise e info).Canonical := by
  obtain ⟨htext, hstream, hout, hfreq, hnode, hlen, hbit⟩ := h
  have keeps_or_empties : ∀ {α : Type} {m : Memory α} (c : Prop) [Decidable c], Memory.wf m →
      Memory.wf (if c then [] else m) := by
    intro α m c _ hm
    split
    · exact Memory.wf_nil
    · exact hm
  constructor
  case text => simpa using htext
  case stream => simpa only [raise_stream, errorEffects_stream] using keeps_or_empties _ hstream
  case out => simpa only [raise_out, errorEffects_out] using keeps_or_empties _ hout
  case freq => simpa only [raise_freq, errorEffects_freq] using keeps_or_empties _ hfreq
  case node => simpa only [raise_node, errorEffects_node] using keeps_or_empties _ hnode
  case codeLen => simpa only [raise_codeLen, errorEffects_codeLen] using keeps_or_empties _ hlen
  case codeBit => simpa only [raise_codeBit, errorEffects_codeBit] using keeps_or_empties _ hbit

theorem accessFault (h : s.Canonical) : s.accessFault.Canonical :=
  ⟨h.text, h.stream, h.out, h.freq, h.node, h.codeLen, h.codeBit⟩

theorem resetNow (s : State) : s.resetNow.Canonical := by constructor <;> exact Memory.wf_nil

theorem writeReg (h : s.Canonical) (r : Reg) (w : Word) : (s.writeReg r w).Canonical := by
  rcases s.writeReg_cases r w with hr | ⟨-, hr⟩ | ⟨-, hr⟩ | ⟨-, -, hr⟩ | ⟨-, -, hr⟩ <;> rw [hr] <;>
    exact ⟨h.text, h.stream, h.out, h.freq, h.node, h.codeLen, h.codeBit⟩

theorem writeElement (h : s.Canonical) (space : Space) (index : Nat) (w : Word) :
    (s.writeElement space index w).Canonical := by
  rcases s.writeElement_cases space index w with hr | ⟨r, -, -, hr⟩ | ⟨-, hr⟩ | ⟨-, hr⟩ <;> rw [hr]
  · exact h.accessFault
  · exact h.writeReg r w
  · exact ⟨Memory.wf_write _ _ _ h.text, h.stream, h.out, h.freq, h.node, h.codeLen, h.codeBit⟩
  · exact ⟨h.text, Memory.wf_write _ _ _ h.stream, h.out, h.freq, h.node, h.codeLen, h.codeBit⟩

theorem after_exec {i : Instr} (h : s.Canonical) (hx : exec i s = .next t) : t.Canonical := by
  cases i with
  | build =>
    rcases execBuild_cases hx with ⟨-, rfl⟩ | ⟨-, rfl⟩
    · exact h.raise _ _
    · exact ⟨h.text, h.stream, h.out, wf_countFrequencies _ _, Memory.wf_ofList _, Memory.wf_nil, Memory.wf_nil⟩
  | gentab =>
    rcases execGentab_cases hx with ⟨-, rfl⟩ | ⟨-, rfl⟩
    · exact h.raise _ _
    · exact ⟨h.text, h.stream, h.out, h.freq, h.node, s.codeTables_canonical.1, s.codeTables_canonical.2⟩
  | encode =>
    rcases execEncode_cases hx with ⟨-, rfl⟩ | ⟨-, bits, -, rfl⟩ | ⟨-, e, k, -, rfl⟩
    · exact h.raise _ _
    · exact ⟨h.text, Memory.wf_writeAll _ _ _ h.stream, h.out, h.freq, h.node, h.codeLen, h.codeBit⟩
    · exact h.raise _ _
  | decode =>
    rcases execDecode_cases hx with ⟨-, rfl⟩ | ⟨-, xs, -, rfl⟩ | ⟨-, e, k, -, rfl⟩
    · exact h.raise _ _
    · exact ⟨h.text, h.stream, Memory.wf_writeAll _ _ _ h.out, h.freq, h.node, h.codeLen, h.codeBit⟩
    · exact h.raise _ _
  | clear =>
    rw [execClear_cases hx]
    exact ⟨h.text, h.stream, h.out, Memory.wf_nil, Memory.wf_nil, Memory.wf_nil, Memory.wf_nil⟩
  | rd space index =>
    rcases execRd_cases hx with rfl | ⟨-, -, rfl⟩
    · exact h.accessFault
    · exact ⟨h.text, h.stream, h.out, h.freq, h.node, h.codeLen, h.codeBit⟩
  | wr space index wdata =>
    rcases execWr_cases hx with rfl | ⟨-, -, -, rfl⟩
    · exact h.accessFault
    · exact h.writeElement space index wdata

end State.Canonical

/-- Settles O15: a step is an instruction, a reset, an error, or nothing. -/
theorem stepKeepsMemoriesCanonical : Obligations.StepKeepsMemoriesCanonical := by
  intro s t h hs
  obtain ⟨r, events, hr, hcase⟩ := step_cases hs
  have hr : r.Canonical := by rw [hr]; exact ⟨h.text, h.stream, h.out, h.freq, h.node, h.codeLen, h.codeBit⟩
  rcases hcase with ⟨w, -, hx⟩ | ⟨-, rfl⟩ | ⟨-, ⟨-, rfl⟩ | ⟨-, i, -, hx⟩ | ⟨-, w, -, rfl⟩⟩
  · exact hr.after_exec hx
  · exact State.Canonical.resetNow r
  · exact hr
  · exact hr.after_exec hx
  · exact hr.raise _ _

/-! ### The invariant at reset (10_state.md R44) -/

/-- No memory holds an element and every register and flag is 0, so each clause is about nothing or about 0. -/
theorem State.inv_of_reset (p : Params) (events : List PortEvent) (n : Nat) (h : p.wellFormed = true) :
    ({ State.reset with params := p, pending := events, draws := n } : State).Inv where
  params := h
  canonical := by constructor <;> exact Memory.wf_nil
  inRange := by constructor <;> exact fun e he => absurd he List.not_mem_nil
  lengths := by constructor <;> exact Nat.zero_le _
  flags := by constructor <;> simp [State.reset]
  tree := by simp [State.reset]
  noTree _ := ⟨rfl, rfl, rfl, rfl, rfl⟩
  table := by simp [State.reset]
  noTable _ := ⟨rfl, rfl⟩

/-- Settles O13: the recommended record meets R6, and the reset state meets the invariant over any that does. -/
theorem invAtReset : Obligations.InvAtReset :=
  ⟨by decide, fun p events h => State.inv_of_reset p events 0 h⟩

end Sys2Proof.Machine
end

section
/-! PROOF. ENCODE (42_encode.md R150 to R156): the loop over a text is the concatenation of the codes, up to the first
symbol it cannot encode. -/

namespace Sys2Proof

/-- The constraints of 00_scope.md R6, by name. -/
structure Params.Bounds (p : Params) : Prop where
  symW_pos : 1 ≤ p.symW
  symW_le : p.symW ≤ 15
  maxText_pos : 1 ≤ p.maxText
  maxText_lt_count : p.maxText < 2 ^ p.wW
  maxText_lt : p.maxText < 2 ^ 32
  maxStream_lt : p.maxStream < 2 ^ 32
  legacy_ne : p.legacySymL ≠ p.legacySymR
  legacySymL_lt : p.legacySymL < p.alpha
  legacySymR_lt : p.legacySymR < p.alpha

theorem Params.bounds_of_wellFormed {p : Params} (h : p.wellFormed = true) : p.Bounds := by
  simp only [Params.wellFormed, Bool.and_eq_true, decide_eq_true_eq] at h
  obtain ⟨⟨⟨⟨⟨hsym, htext, hcount⟩, hstream⟩, ⟨hw, htext32⟩, hstream32⟩, hsym15⟩, ⟨hne, hl⟩, hr⟩ := h
  have hpos : 0 < 2 ^ p.wW := Nat.two_pow_pos _
  exact ⟨hsym, hsym15, htext, by omega, by omega, by omega, hne, hl, hr⟩

theorem Params.alpha_pos (p : Params) : 0 < p.alpha := Nat.two_pow_pos _

/-- A node index has one bit more than a symbol (00_scope.md R7). -/
theorem Params.two_pow_idxW (p : Params) : 2 ^ p.idxW = 2 * p.alpha := by
  rw [Params.idxW, Params.alpha, pow_succ, Nat.mul_comm]

theorem Params.Bounds.alpha_le {p : Params} (hp : p.Bounds) : p.alpha ≤ 2 ^ 15 :=
  Nat.pow_le_pow_right (Nat.succ_pos 1) hp.symW_le

theorem Params.Bounds.two_le_alpha {p : Params} (hp : p.Bounds) : 2 ≤ p.alpha :=
  Nat.pow_le_pow_right (Nat.succ_pos 1) hp.symW_pos

theorem Params.Bounds.maxLen_le {p : Params} (hp : p.Bounds) : p.maxLen ≤ p.alpha := by
  have := hp.two_le_alpha
  rw [Params.maxLen]
  omega

end Sys2Proof

namespace Sys2Proof.Machine

variable {s t : State} {codeOf : Symbol → List Bit} {cap : Nat}

/-! ### The loop -/

@[simp] theorem concatCodes_nil (codeOf : Symbol → List Bit) : concatCodes codeOf [] = [] := rfl

@[simp] theorem concatCodes_cons (codeOf : Symbol → List Bit) (x : Symbol) (xs : List Symbol) :
    concatCodes codeOf (x :: xs) = codeOf x ++ concatCodes codeOf xs := rfl

@[simp] theorem concatCodes_append (codeOf : Symbol → List Bit) (xs ys : List Symbol) :
    concatCodes codeOf (xs ++ ys) = concatCodes codeOf xs ++ concatCodes codeOf ys := by
  simp [concatCodes]

theorem length_concatCodes (codeOf : Symbol → List Bit) (text : List Symbol) :
    (concatCodes codeOf text).length = (text.map fun x => (codeOf x).length).sum := by
  simp [concatCodes, List.length_flatMap]

/-- Symbols with codes that fit are encoded one after the other; what comes of the rest is decided there. -/
theorem encodeLoop_append {pre : List Symbol} (rest : List Symbol) {i pos : Nat} (hcodes : ∀ y ∈ pre, codeOf y ≠ [])
    (hfit : pos + (concatCodes codeOf pre).length ≤ cap) :
    encodeLoop codeOf cap i pos (pre ++ rest) =
      (encodeLoop codeOf cap (i + pre.length) (pos + (concatCodes codeOf pre).length) rest).map
        (concatCodes codeOf pre ++ ·) := by
  induction pre generalizing i pos with
  | nil => cases h : encodeLoop codeOf cap i pos rest <;> simp [h, Except.map]
  | cons x xs ih =>
    obtain ⟨hx, hxs⟩ := List.forall_mem_cons.mp hcodes
    simp only [concatCodes_cons, List.length_append, List.length_cons] at hfit ⊢
    have hroom : ¬ pos + (codeOf x).length > cap := by omega
    rw [List.cons_append, encodeLoop, if_neg hx, if_neg hroom, ih hxs (by omega),
      show i + 1 + xs.length = i + (xs.length + 1) by omega, Nat.add_assoc]
    cases encodeLoop codeOf cap (i + (xs.length + 1)) (pos + ((codeOf x).length + (concatCodes codeOf xs).length)) rest
      <;> simp [Except.map]

/-- What the loop writes never passes the end of the stream. -/
theorem encodeLoop_fits {text : List Symbol} {i pos : Nat} {bits : List Bit} (hpos : pos ≤ cap)
    (h : encodeLoop codeOf cap i pos text = .ok bits) : pos + bits.length ≤ cap := by
  induction text generalizing i pos bits with
  | nil => cases h; simpa using hpos
  | cons x xs ih =>
    unfold encodeLoop at h
    split at h
    · cases h
    · split at h
      · cases h
      · rename_i hroom
        split at h
        · rename_i rest hrest
          cases h
          have := ih (by omega) hrest
          rw [List.length_append]
          omega
        · cases h

/-! ### The three outcomes -/

theorem exec_encode_of_ok {bits : List Bit} (h : s.status.tableValid = true) (hbits : s.encoding = .ok bits) :
    exec .encode s = .next (s.streamWritten bits).succeed := by
  simp [exec, execEncode, h, hbits]

theorem exec_encode_of_error {e : CmdError} {k : Nat} (h : s.status.tableValid = true)
    (herr : s.encoding = .error (e, k)) : exec .encode s = .next (s.raise e (BitVec.ofNat 32 k)) := by
  simp [exec, execEncode, h, herr]

theorem State.encoding_of_fits (s : State) (hcodes : ∀ x ∈ s.textSymbols, s.codeOf x ≠ [])
    (hfit : (concatCodes s.codeOf s.textSymbols).length ≤ s.params.maxStream) :
    s.encoding = .ok (concatCodes s.codeOf s.textSymbols) := by
  have h := encodeLoop_append (i := 0) (pos := 0) [] hcodes (by simpa using hfit)
  simpa [State.encoding, encodeLoop, Except.map] using h

theorem State.encoding_of_absent {pre post : List Symbol} {x : Symbol} (htext : s.textSymbols = pre ++ x :: post)
    (hcodes : ∀ y ∈ pre, s.codeOf y ≠ []) (hfit : (concatCodes s.codeOf pre).length ≤ s.params.maxStream)
    (hx : s.codeOf x = []) : s.encoding = .error (.symbolNotInTable, pre.length) := by
  rw [State.encoding, htext, encodeLoop_append _ hcodes (by simpa using hfit)]
  simp [encodeLoop, hx, Except.map]

theorem State.encoding_of_overflow {pre post : List Symbol} {x : Symbol} (htext : s.textSymbols = pre ++ x :: post)
    (hcodes : ∀ y ∈ pre, s.codeOf y ≠ []) (hfit : (concatCodes s.codeOf pre).length ≤ s.params.maxStream)
    (hx : s.codeOf x ≠ []) (hover : s.params.maxStream < (concatCodes s.codeOf (pre ++ [x])).length) :
    s.encoding = .error (.streamOverflow, pre.length) := by
  have hfull : (concatCodes s.codeOf pre).length + (s.codeOf x).length > s.params.maxStream := by
    simpa using hover
  rw [State.encoding, htext, encodeLoop_append _ hcodes (by simpa using hfit)]
  simp [encodeLoop, hx, hfull, Except.map]

/-- A block written from element 0 on, read back. -/
theorem Memory.read_writeAll_zero {α : Type} (m : Memory α) (vs : List α) (k : Nat) :
    (Memory.writeAll m 0 vs).read k = if k < vs.length then vs[k]? else Memory.read m k := by
  simp [Memory.read_writeAll]

/-- Settles O46: the loop ends with the concatenation, which is what is written. -/
theorem encodeConcatenatesTheCodes : Obligations.EncodeConcatenatesTheCodes := by
  intro s hp htable hcodes hfit
  obtain ⟨htext, hout, htree, htab, hflags, hcontrol, hport⟩ :=
    s.streamWritten_frame (concatCodes s.codeOf s.textSymbols)
  have hlen : (s.streamWritten (concatCodes s.codeOf s.textSymbols)).succeed.streamLen.toNat =
      (concatCodes s.codeOf s.textSymbols).length := by
    simpa using Nat.mod_eq_of_lt (hfit.trans_lt (Params.bounds_of_wellFormed hp).maxStream_lt)
  refine ⟨_, exec_encode_of_ok htable (s.encoding_of_fits hcodes hfit), State.succeed_succeeded _, hlen, ?sum, ?inside,
    ?beyond, hflags, htext, hout, htree, htab, hcontrol, hport⟩
  case sum => rw [hlen, length_concatCodes]; simp [State.codeOf]
  case inside =>
    intro k hk
    rw [hlen] at hk
    simp [Memory.read_writeAll_zero, hk]
  case beyond =>
    intro k hk
    rw [hlen] at hk
    simp [Memory.read_writeAll_zero, Nat.not_lt.mpr hk]

/-- ENCODE ends in a data error (42_encode.md R156): the stream is lost, all else is kept. -/
theorem encode_fails {e : CmdError} {k : Nat} (htable : s.status.tableValid = true)
    (herr : s.encoding = .error (e, k)) : ∃ t, exec .encode s = .next t ∧ Failed t e (BitVec.ofNat 32 k) ∧
      t.streamLen = 0 ∧ (∀ k, t.stream.read k = none) ∧ KeepsValidFlags s t ∧ KeepsText s t ∧ KeepsOut s t ∧
      KeepsTree s t ∧ KeepsTable s t ∧ KeepsControl s t ∧ KeepsPort s t := by
  have he := State.encoding_error herr
  obtain ⟨htext, hout, htree, htab, hflags, hcontrol, hport⟩ := s.raise_encodeFrame (BitVec.ofNat 32 k) (.inr he)
  obtain ⟨hlen, hstream⟩ := s.raise_empties_stream (BitVec.ofNat 32 k) he
  exact ⟨_, exec_encode_of_error htable herr, s.raise_failed _ _, hlen, hstream, hflags, htext, hout, htree, htab,
    hcontrol, hport⟩

/-- Settles O47: the loop stops at the symbol without a code. -/
theorem encodeReportsAbsentSymbol : Obligations.EncodeReportsAbsentSymbol :=
  fun _ _ _ _ htable htext hcodes hfit hx => encode_fails htable (State.encoding_of_absent htext hcodes hfit hx)

/-- Settles O48: the loop stops at the code that does not fit. -/
theorem encodeReportsStreamOverflow : Obligations.EncodeReportsStreamOverflow :=
  fun _ _ _ _ htable htext hcodes hfit hx hover =>
    encode_fails htable (State.encoding_of_overflow htext hcodes hfit hx hover)

end Sys2Proof.Machine
end

section
/-! PROOF. DECODE on a tree that is one Leaf (43_decode.md R161, R166). -/

namespace Sys2Proof.Machine

variable {s t : State}

theorem decodeDegenerate_of_fits (x : Symbol) {cap k n : Nat} (bits : List Bit) (h : n + bits.length ≤ cap) :
    decodeDegenerate x cap k n bits = .ok (List.replicate bits.length x) := by
  induction bits generalizing k n with
  | nil => rfl
  | cons b bits ih =>
    rw [List.length_cons] at h
    rw [decodeDegenerate, if_neg (by omega), ih (by omega), List.length_cons, List.replicate_succ]

theorem decodeDegenerate_of_overflow (x : Symbol) {cap k n : Nat} (bits : List Bit) (hn : n ≤ cap)
    (h : cap < n + bits.length) : decodeDegenerate x cap k n bits = .error (.outputOverflow, k + (cap - n)) := by
  induction bits generalizing k n with
  | nil => rw [List.length_nil] at h; omega
  | cons b bits ih =>
    rw [List.length_cons] at h
    by_cases hfull : n = cap
    · rw [decodeDegenerate, if_pos hfull, hfull, Nat.sub_self, Nat.add_zero]
    · rw [decodeDegenerate, if_neg hfull, ih (by omega) (by omega), show k + 1 + (cap - (n + 1)) = k + (cap - n) by omega]

@[simp] theorem State.length_streamBits (s : State) : s.streamBits.length = s.streamLen.toNat := by
  simp [State.streamBits]

theorem exec_decode_of_ok {xs : List Symbol} (h : s.status.treeValid = true) (hxs : s.decoding = .ok xs) :
    exec .decode s = .next (s.outWritten xs).succeed := by
  simp [exec, execDecode, h, hxs]

theorem exec_decode_of_error {e : CmdError} {k : Nat} (h : s.status.treeValid = true)
    (herr : s.decoding = .error (e, k)) : exec .decode s = .next (s.raise e (BitVec.ofNat 32 k)) := by
  simp [exec, execDecode, h, herr]

/-- DECODE succeeds (R169): OUT holds the symbols, elements beyond and all else are kept. -/
theorem decode_succeeds {xs : List Symbol} (htree : s.status.treeValid = true) (hxs : s.decoding = .ok xs) :
    ∃ t, exec .decode s = .next t ∧ Succeeded s t ∧ t.outLen = BitVec.ofNat 32 xs.length ∧
      (∀ k < xs.length, t.out.read k = xs[k]?) ∧ (∀ k, xs.length ≤ k → t.out.read k = s.out.read k) ∧
      KeepsValidFlags s t ∧ KeepsText s t ∧ KeepsStream s t ∧ KeepsTree s t ∧ KeepsTable s t ∧ KeepsControl s t ∧
      KeepsPort s t := by
  obtain ⟨htext, hstream, htree', htab, hflags, hcontrol, hport⟩ := s.outWritten_frame xs
  refine ⟨_, exec_decode_of_ok htree hxs, State.succeed_succeeded _, rfl, fun k hk => ?inside, fun k hk => ?beyond, hflags,
    htext, hstream, htree', htab, hcontrol, hport⟩
  case inside => simp [Memory.read_writeAll_zero, hk]
  case beyond => simp [Memory.read_writeAll_zero, Nat.not_lt.mpr hk]

/-- DECODE ends in a data error (R169): OUT is lost, all else is kept. -/
theorem decode_fails {e : CmdError} {k : Nat} (htree : s.status.treeValid = true) (herr : s.decoding = .error (e, k)) :
    ∃ t, exec .decode s = .next t ∧ Failed t e (BitVec.ofNat 32 k) ∧ t.outLen = 0 ∧ (∀ k, t.out.read k = none) ∧
      KeepsValidFlags s t ∧ KeepsText s t ∧ KeepsStream s t ∧ KeepsTree s t ∧ KeepsTable s t ∧ KeepsControl s t ∧
      KeepsPort s t := by
  have he := State.decoding_error herr
  obtain ⟨htext, hstream, htree', htab, hflags, hcontrol, hport⟩ := s.raise_decodeFrame (BitVec.ofNat 32 k) (.inr he)
  obtain ⟨hlen, hout⟩ := s.raise_empties_out (BitVec.ofNat 32 k) he
  exact ⟨_, exec_decode_of_error htree herr, s.raise_failed _ _, hlen, hout, hflags, htext, hstream, htree', htab,
    hcontrol, hport⟩

theorem State.decoding_of_leaf (h : (s.nodeAt s.rootSlot).tag = .leaf) :
    s.decoding = decodeDegenerate (s.nodeAt s.rootSlot).sym s.params.maxText 0 0 s.streamBits := by
  simp [State.decoding, h]

/-- Settles O51: the loop repeats the symbol until the stream ends or OUT is full, and has no other error. -/
theorem degenerateDecodeRepeatsTheSymbol : Obligations.DegenerateDecodeRepeatsTheSymbol := by
  intro s htree hleaf
  have hloop := State.decoding_of_leaf hleaf
  refine ⟨fun hfit => ?fits, fun hover => ?overflow, fun t hx herr => ?noMalformed⟩
  case fits =>
    rw [decodeDegenerate_of_fits _ _ (by simpa using hfit), s.length_streamBits] at hloop
    obtain ⟨t, hx, hsucc, hlen, hinside, hbeyond, hkeeps⟩ := decode_succeeds htree hloop
    simp only [List.length_replicate] at hlen hinside hbeyond
    exact ⟨t, hx, hsucc, by simpa using hlen, fun k hk => by simp [hinside k hk, hk], hbeyond, hkeeps⟩
  case overflow =>
    rw [decodeDegenerate_of_overflow _ _ (Nat.zero_le _) (by simpa using hover), Nat.zero_add, Nat.sub_zero] at hloop
    obtain ⟨t, hx, hfailed, hlen, hout, -⟩ := decode_fails htree hloop
    exact ⟨t, hx, hfailed, hlen, hout⟩
  case noMalformed =>
    rcases execDecode_cases hx with ⟨hno, -⟩ | ⟨-, xs, -, rfl⟩ | ⟨-, e, k, he, rfl⟩
    · simp [htree] at hno
    · simp at herr
    · rw [hloop] at he
      simp [decodeDegenerate_error he] at herr

end Sys2Proof.Machine
end

section
/-! PROOF. The Frequency Counter (40_build.md R111): FREQ holds the counts of the text, and BUILD sees of the text
nothing else (R127). -/

namespace Sys2Proof.Machine

variable {s s' t : State}

/-! ### Counting -/

theorem read_countSymbol (freq : Memory Nat) (x y : Symbol) : (countSymbol freq x).read y =
    if y = x then some ((freq.read x).getD 0 + 1) else freq.read y :=
  Memory.read_write freq x y _

theorem read_foldl_countSymbol (text : List Symbol) (freq : Memory Nat) (x : Symbol) :
    (text.foldl countSymbol freq).read x =
      if x ∈ text then some ((freq.read x).getD 0 + text.count x) else freq.read x := by
  induction text generalizing freq with
  | nil => rfl
  | cons y ys ih =>
    rw [List.foldl_cons, ih, read_countSymbol]
    by_cases hxy : x = y
    · subst hxy
      by_cases hmem : x ∈ ys
      · simp [hmem, Nat.add_assoc, Nat.add_comm 1]
      · simp [hmem, List.count_eq_zero_of_not_mem hmem]
    · have hyx : ¬ y = x := fun h => hxy h.symm
      simp [hxy, List.count_cons_of_ne hyx]

theorem State.textAt_lt (s : State) (i : Nat) : s.textAt i < s.params.alpha := Nat.mod_lt _ s.params.alpha_pos

theorem State.lt_alpha_of_mem_text {x : Symbol} (h : x ∈ s.textSymbols) : x < s.params.alpha := by
  obtain ⟨i, -, rfl⟩ := List.mem_map.mp h
  exact s.textAt_lt i

@[simp] theorem State.length_textSymbols (s : State) : s.textSymbols.length = s.textLen.toNat := by
  simp [State.textSymbols]

theorem State.textCounts_read (s : State) (x : Symbol) : s.textCounts.read x =
    if x < s.params.alpha then some (s.textSymbols.count x) else none := by
  rw [State.textCounts, countFrequencies, read_foldl_countSymbol, Memory.read_table]
  by_cases hmem : x ∈ s.textSymbols
  · simp [hmem, State.lt_alpha_of_mem_text hmem]
  · simp [hmem, List.count_eq_zero_of_not_mem hmem]

@[simp] theorem State.countOf_textCounts (s : State) (x : Symbol) : countOf s.textCounts x = s.textSymbols.count x := by
  rw [countOf, s.textCounts_read]
  split
  · rfl
  · rename_i hx
    exact (List.count_eq_zero_of_not_mem fun hmem => hx (State.lt_alpha_of_mem_text hmem)).symm

@[simp] theorem State.presentSymbols_textCounts (s : State) :
    presentSymbols s.params.alpha s.textCounts = s.present := by
  simp [presentSymbols, State.present, List.count_pos_iff]

/-- A sum over a text, symbol by symbol: each of the listed symbols counts as often as it occurs. -/
theorem sum_map_eq_sum_count {text symbols : List Symbol} (f : Symbol → Nat) (hnodup : symbols.Nodup)
    (hsub : text ⊆ symbols) : (text.map f).sum = (symbols.map fun x => text.count x * f x).sum := by
  rw [Finset.sum_list_map_count, ← List.sum_toFinset _ hnodup]
  refine Finset.sum_subset (fun x hx => List.mem_toFinset.mpr (hsub (List.mem_toFinset.mp hx))) fun x _ hx => ?_
  have hzero : text.count x = 0 := List.count_eq_zero_of_not_mem fun hmem => hx (List.mem_toFinset.mpr hmem)
  simp [hzero]

theorem State.text_subset_range (s : State) : s.textSymbols ⊆ List.range s.params.alpha :=
  fun _ hx => List.mem_range.mpr (State.lt_alpha_of_mem_text hx)

theorem State.sum_counts (s : State) :
    ((List.range s.params.alpha).map fun x => s.textSymbols.count x).sum = s.textLen.toNat := by
  have h := sum_map_eq_sum_count (fun _ => 1) List.nodup_range s.text_subset_range
  simpa using h.symm

/-! ### BUILD of a non-empty text -/

/-- What BUILD of a non-empty text leads to (R110). -/
def State.built (s : State) : State :=
  (s.treeWritten s.textCounts (buildNodes s.params s.cfg.legacyCd s.textCounts)).succeed

theorem exec_build_of_text (h : s.textLen ≠ 0) : exec .build s = .next s.built := if_neg h

@[simp] theorem State.built_freq (s : State) : s.built.freq = s.textCounts := rfl
@[simp] theorem State.built_params (s : State) : s.built.params = s.params := rfl
@[simp] theorem State.built_nleaf (s : State) : s.built.nleaf = BitVec.ofNat 32 s.present.length := by
  simp [State.built]
@[simp] theorem State.built_nodeCnt (s : State) : s.built.nodeCnt = BitVec.ofNat 32 (2 * s.present.length - 1) := by
  simp [State.built]
theorem State.built_node (s : State) :
    s.built.node = Memory.ofList (buildNodes s.params s.cfg.legacyCd s.textCounts).nodes := rfl
theorem State.built_root (s : State) :
    s.built.root = BitVec.ofNat 32 (buildNodes s.params s.cfg.legacyCd s.textCounts).rootSlot := rfl

/-- Settles O30: FREQ is the counts of the text, which add up to its length. -/
theorem buildCountsTheText : Obligations.BuildCountsTheText := by
  refine fun s h => ⟨_, exec_build_of_text h, fun x => ?count, ?sum⟩
  case count =>
    rw [State.built_freq, s.textCounts_read, State.textSymbols, List.count, List.countP_map, List.countP_eq_length_filter]
    rfl
  case sum =>
    rw [← s.sum_counts]
    exact congrArg List.sum (List.map_congr_left fun x _ => s.countOf_textCounts x)

/-! ### BUILD depends on the counts alone (R127) -/

theorem State.textCounts_congr (halpha : s.params.alpha = s'.params.alpha)
    (h : ∀ x < s.params.alpha, s.textSymbols.count x = s'.textSymbols.count x) : s.textCounts = s'.textCounts := by
  refine Memory.ext_of_wf (wf_countFrequencies _ _) (wf_countFrequencies _ _) fun x => ?_
  rw [s.textCounts_read, s'.textCounts_read, ← halpha]
  split
  case isTrue hx => rw [h x hx]
  case isFalse => rfl

/-- What the tree is made of: FREQ, and the builder's result on it. -/
theorem State.built_keepsTree (hparams : s.params = s'.params) (hcounts : s.textCounts = s'.textCounts)
    (hnodes : buildNodes s.params s.cfg.legacyCd s.textCounts = buildNodes s'.params s'.cfg.legacyCd s'.textCounts) :
    KeepsTree s.built s'.built := by
  refine ⟨?_, ?_, ?_, fun x => ?_, fun i => ?_⟩
  · rw [State.built_root, State.built_root, hnodes]
  · simp only [State.built, State.succeed_nodeCnt, State.treeWritten_nodeCnt, hcounts, hparams]
  · simp only [State.built, State.succeed_nleaf, State.treeWritten_nleaf, hcounts, hparams]
  · rw [State.built_freq, State.built_freq, hcounts]
  · rw [State.built_node, State.built_node, hnodes]

/-- Settles O38: BUILD reads the text through its counts. -/
theorem buildDependsOnlyOnCounts : Obligations.BuildDependsOnlyOnCounts := by
  intro s s' hparams hcfg h h' hcounts
  have hfreq := State.textCounts_congr (congrArg Params.alpha hparams) hcounts
  exact ⟨_, _, exec_build_of_text h, exec_build_of_text h', State.built_keepsTree hparams hfreq (by rw [hparams, hcfg, hfreq])⟩

/-! ### When the legacy rule applies (R119) -/

theorem State.legacyApplies_iff (s : State) (flag : Bool) : legacyApplies s.params flag s.textCounts = true ↔
    flag = true ∧ s.params.legacySymL ∈ s.textSymbols ∧ s.params.legacySymR ∈ s.textSymbols := by
  simp [legacyApplies, List.count_pos_iff, and_assoc]

theorem State.legacyApplies_iff_legacyNow (s : State) :
    legacyApplies s.params s.cfg.legacyCd s.textCounts = true ↔ s.legacyNow := s.legacyApplies_iff s.cfg.legacyCd

/-- The flag reaches the builder only through the test of R119. -/
theorem buildNodes_congr_flag {p : Params} {flag flag' : Bool} {freq : Memory Nat}
    (h : legacyApplies p flag freq = legacyApplies p flag' freq) : buildNodes p flag freq = buildNodes p flag' freq := by
  simp only [buildNodes, finishTree, startMerging, h]

/-- Settles O37: without both symbols the test of R119 fails for either flag. -/
theorem legacyFlagNeedsBothSymbols : Obligations.LegacyFlagNeedsBothSymbols := by
  intro s flag h hmissing
  have never : ∀ b, legacyApplies s.params b s.textCounts = false := fun b =>
    Bool.eq_false_of_not_eq_true fun happ => hmissing ((s.legacyApplies_iff b).mp happ).2
  refine ⟨s.built, ({ s with cfg := { legacyCd := flag } } : State).built, exec_build_of_text h, exec_build_of_text h,
    State.built_keepsTree rfl rfl ?_⟩
  exact buildNodes_congr_flag ((never s.cfg.legacyCd).trans (never flag).symm)

end Sys2Proof.Machine
end

section
/-! PROOF. The merge loop of BUILD (40_build.md R117 to R120): one pass, and what every number of passes keeps. -/

namespace Sys2Proof.Machine

variable {b b' : Builder} {q q' : List Entry}

/-! ### One pass -/

theorem SlotsInOrder.sublist (h : SlotsInOrder q) (hs : q'.Sublist q) : SlotsInOrder q' where
  distinct := h.distinct.sublist (hs.map Entry.slot)
  leaves e he f hf := h.leaves e (hs.subset he) f (hs.subset hf)

theorem SlotsInOrder.nodup (h : SlotsInOrder q) : q.Nodup := h.distinct.of_map

/-- With two members or more, a pass merges the least and the least of the rest. -/
theorem SlotsInOrder.pass_spec (h : SlotsInOrder b.queue) (hlen : 2 ≤ b.queue.length) :
    ∃ l ∈ b.queue, ∃ r ∈ b.queue, l ≠ r ∧ b.pass = some (b.merge ((b.queue.erase l).erase r) l r) ∧
      (∀ e ∈ b.queue, e ≠ l → before l e = true) ∧ ∀ e ∈ b.queue, e ≠ l → e ≠ r → before r e = true := by
  obtain ⟨l, hext, hl, hleast⟩ := h.extractMin_spec (List.ne_nil_of_length_pos (by omega))
  have hrest : b.queue.erase l ≠ [] := List.ne_nil_of_length_pos (by rw [List.length_erase_of_mem hl]; omega)
  obtain ⟨r, hext', hr, hnext⟩ := (h.sublist List.erase_sublist).extractMin_spec hrest
  obtain ⟨hne, hrq⟩ := (h.nodup.mem_erase_iff).mp hr
  refine ⟨l, hl, r, hrq, hne.symm, ?_, hleast, fun e he hel her => ?_⟩
  · simp [Builder.pass, hext, hext']
  · exact hnext e (h.nodup.mem_erase_iff.mpr ⟨hel, he⟩) her

/-- With at most one member there is nothing to merge. -/
theorem Builder.pass_eq_none (h : b.queue.length ≤ 1) : b.pass = none := by
  unfold Builder.pass
  match b.queue, h with
  | [], _ => rfl
  | [e], _ => simp [extractMin, minEntry]

/-- Settles O34: the new node is `mergedNode`, put behind what is left of the collection. -/
theorem passMergesTheTwoLeast : Obligations.PassMergesTheTwoLeast := by
  intro b h hlen
  obtain ⟨l, hl, r, hr, hne, hpass, hleast, hnext⟩ := h.pass_spec hlen
  exact ⟨_, l, r, hpass, hl, hr, hne, hleast, hnext, mergedNode l r, rfl, rfl, rfl, rfl, rfl, rfl,
    List.perm_append_singleton _ _⟩

/-! ### The slots written stay written -/

theorem getElem?_eq_some_of_isPrefix {α : Type} {xs ys : List α} (h : xs <+: ys) {k : Nat} {v : α}
    (hv : xs[k]? = some v) : ys[k]? = some v := by
  obtain ⟨zs, rfl⟩ := h
  obtain ⟨hk, -⟩ := List.getElem?_eq_some_iff.mp hv
  rw [List.getElem?_append_left hk, hv]

theorem Builder.nodes_isPrefix_pass (h : b.pass = some b') : b.nodes <+: b'.nodes := by
  unfold Builder.pass at h
  split at h
  · cases h
  · split at h
    · cases h
    · cases h
      exact List.prefix_append _ _

theorem nodes_isPrefix_mergeLoop (fuel : Nat) (b : Builder) : b.nodes <+: (mergeLoop fuel b).nodes := by
  induction fuel generalizing b with
  | zero => exact List.prefix_rfl
  | succ fuel ih =>
    unfold mergeLoop
    split
    · exact List.prefix_rfl
    · rename_i b' hpass
      exact (Builder.nodes_isPrefix_pass hpass).trans (ih b')

theorem nodes_isPrefix_legacyPremerge (p : Params) (b : Builder) : b.nodes <+: (legacyPremerge p b).nodes := by
  unfold legacyPremerge
  split
  · exact List.prefix_append _ _
  · exact List.prefix_rfl

theorem nodes_isPrefix_startMerging (p : Params) (flag : Bool) (freq : Memory Nat) (b : Builder) :
    b.nodes <+: (startMerging p flag freq b).nodes := by
  unfold startMerging
  split
  · exact nodes_isPrefix_legacyPremerge p b
  · exact List.prefix_rfl

theorem seedLeaves_isPrefix_buildNodes (p : Params) (flag : Bool) (freq : Memory Nat) :
    (seedLeaves freq (presentSymbols p.alpha freq)).nodes <+: (buildNodes p flag freq).nodes := by
  unfold buildNodes finishTree
  split
  · exact List.prefix_rfl
  · exact (nodes_isPrefix_startMerging p flag freq _).trans (nodes_isPrefix_mergeLoop _ _)

/-- Settles O32: the Leaves are the first slots written, and no later one replaces them. -/
theorem buildSeedsLeavesInOrder : Obligations.BuildSeedsLeavesInOrder := by
  refine fun s h => ⟨_, exec_build_of_text h, fun k x hx => ?_⟩
  have hseed : (seedLeaves s.textCounts s.present).nodes[k]? = some (leafNode (s.textSymbols.count x) x) := by
    simp [seedLeaves, hx]
  rw [← s.presentSymbols_textCounts] at hseed
  rw [State.built_node, Memory.read_ofList]
  exact getElem?_eq_some_of_isPrefix (seedLeaves_isPrefix_buildNodes _ _ _) hseed

end Sys2Proof.Machine
end

section
/-! PROOF. Forests in a node table (10_state.md R34, R35; 40_build.md R117, R120): the slots without a parent, and what
adds up over them. A finished table is a forest of one tree. -/

namespace Sys2Proof.Machine

variable {F : Nat → Node} {n m i j k : Nat}

/-! ### The slots not yet a child -/

/-- The slots below `i` that no Internal slot below `i` has as a child: `State.alive` for any node table. -/
def aliveIn (F : Nat → Node) (i : Nat) : List Nat :=
  (List.range i).filter fun j => (List.range i).all fun k =>
    decide ((F k).tag = .leaf) || (decide ((F k).left ≠ j) && decide ((F k).right ≠ j))

theorem State.alive_eq (s : State) (i : Nat) : s.alive i = aliveIn s.nodeAt i := rfl

theorem Tag.ne_leaf_iff {t : Tag} : t ≠ .leaf ↔ t = .internal := by cases t <;> simp

theorem mem_aliveIn : j ∈ aliveIn F i ↔
    j < i ∧ ∀ k < i, (F k).tag = .internal → (F k).left ≠ j ∧ (F k).right ≠ j := by
  simp only [aliveIn, List.mem_filter, List.mem_range, List.all_eq_true, Bool.or_eq_true, Bool.and_eq_true,
    decide_eq_true_eq, ← Tag.ne_leaf_iff, or_iff_not_imp_left, ne_eq]

theorem lt_of_mem_aliveIn (h : j ∈ aliveIn F i) : j < i := (mem_aliveIn.mp h).1

theorem nodup_aliveIn (F : Nat → Node) (i : Nat) : (aliveIn F i).Nodup := List.nodup_range.filter _

/-! ### Forests -/

/-- Slot `i` merges two slots that had no parent before it (R117, R118). -/
structure IsMerge (F : Nat → Node) (i : Nat) : Prop where
  tag : (F i).tag = .internal
  sym : (F i).sym = 0
  left : (F i).left ∈ aliveIn F i
  right : (F i).right ∈ aliveIn F i
  ne : (F i).left ≠ (F i).right
  weight : (F i).weight = (F (F i).left).weight + (F (F i).right).weight

/-- The slots below `m` are a forest over `n` Leaves: the Leaves first, then one merge after the other. -/
structure Forest (F : Nat → Node) (n m : Nat) : Prop where
  le : n ≤ m
  leaf : ∀ k < n, (F k).tag = .leaf
  merge : ∀ i, n ≤ i → i < m → IsMerge F i

namespace Forest

variable (h : Forest F n m)
include h

theorem le_of_internal (ht : (F k).tag = .internal) : n ≤ k := by
  by_contra hk
  rw [h.leaf k (by omega)] at ht
  cases ht

/-- The children of an Internal slot lie below it. -/
theorem child_lt (hk : k < m) (ht : (F k).tag = .internal) : (F k).left < k ∧ (F k).right < k := by
  have hmerge := h.merge k (h.le_of_internal ht) hk
  exact ⟨lt_of_mem_aliveIn hmerge.left, lt_of_mem_aliveIn hmerge.right⟩

theorem aliveIn_leaves : aliveIn F n = List.range n := by
  refine List.filter_eq_self.mpr fun j _ => List.all_eq_true.mpr fun k hk => ?_
  simp [h.leaf k (List.mem_range.mp hk)]

/-- A merge takes its two children out of the collection and puts its own slot in (R117, R120). -/
theorem aliveIn_succ (hn : n ≤ i) (hm : i < m) :
    (aliveIn F (i + 1)).Perm (i :: ((aliveIn F i).erase (F i).left).erase (F i).right) := by
  have hmerge := h.merge i hn hm
  have hnodup := nodup_aliveIn F i
  refine (List.perm_ext_iff_of_nodup (nodup_aliveIn F (i + 1)) ?_).mpr fun j => ?_
  · refine List.nodup_cons.mpr ⟨fun hi => ?_, (hnodup.erase _).erase _⟩
    exact absurd (lt_of_mem_aliveIn (List.mem_of_mem_erase (List.mem_of_mem_erase hi))) (lt_irrefl i)
  · rw [List.mem_cons, (hnodup.erase _).mem_erase_iff, hnodup.mem_erase_iff, mem_aliveIn, mem_aliveIn]
    constructor
    · rintro ⟨hj, hfree⟩
      obtain ⟨hl, hr⟩ := hfree i (by omega) hmerge.tag
      rcases Nat.lt_succ_iff_lt_or_eq.mp hj with hj | rfl
      · exact .inr ⟨hr.symm, hl.symm, hj, fun k hk => hfree k (by omega)⟩
      · exact .inl rfl
    · rintro (rfl | ⟨hr, hl, hj, hfree⟩)
      · refine ⟨Nat.lt_succ_self _, fun k hk ht => ?_⟩
        obtain ⟨hkl, hkr⟩ := h.child_lt (by omega) ht
        omega
      · refine ⟨by omega, fun k hk ht => ?_⟩
        rcases Nat.lt_succ_iff_lt_or_eq.mp hk with hk | rfl
        · exact hfree k hk ht
        · exact ⟨hl.symm, hr.symm⟩

theorem aliveIn_perm_children (hn : n ≤ i) (hm : i < m) : (aliveIn F i).Perm
    ((F i).left :: (F i).right :: ((aliveIn F i).erase (F i).left).erase (F i).right) := by
  have hmerge := h.merge i hn hm
  have hr : (F i).right ∈ (aliveIn F i).erase (F i).left :=
    (nodup_aliveIn F i).mem_erase_iff.mpr ⟨hmerge.ne.symm, hmerge.right⟩
  exact (List.perm_cons_erase hmerge.left).trans ((List.perm_cons_erase hr).cons _)

/-- What a merge adds up over its children adds up over the whole collection, at every stage. -/
theorem sum_aliveIn {M : Type} [AddCommMonoid M] (f : Nat → M)
    (hf : ∀ i, n ≤ i → i < m → f i = f (F i).left + f (F i).right) (hn : n ≤ i) (hm : i ≤ m) :
    ((aliveIn F i).map f).sum = ((List.range n).map f).sum := by
  induction i, hn using Nat.le_induction with
  | base => rw [h.aliveIn_leaves]
  | succ i hn ih =>
    rw [← ih (by omega), ((h.aliveIn_succ hn hm).map f).sum_eq, ((h.aliveIn_perm_children hn hm).map f).sum_eq]
    simp [hf i hn hm, add_assoc]

/-- With each merge the collection loses one member (R117). -/
theorem length_aliveIn (hn : n ≤ i) (hm : i ≤ m) : (aliveIn F i).length + i = 2 * n := by
  induction i, hn using Nat.le_induction with
  | base => rw [h.aliveIn_leaves, List.length_range]; omega
  | succ i hn ih =>
    have ih := ih (by omega)
    rw [(h.aliveIn_perm_children hn hm).length_eq] at ih
    rw [(h.aliveIn_succ hn hm).length_eq]
    simp only [List.length_cons] at ih ⊢
    omega

/-- The last slot is no one's child: children lie below. -/
theorem last_mem_aliveIn (hm : 0 < m) : m - 1 ∈ aliveIn F m := by
  refine mem_aliveIn.mpr ⟨by omega, fun k hk ht => ?_⟩
  obtain ⟨hl, hr⟩ := h.child_lt hk ht
  omega

end Forest

/-- A forest of 2 n − 1 slots is one tree, rooted in the last. -/
theorem Forest.aliveIn_root (h : Forest F n (2 * n - 1)) (hn : 1 ≤ n) : aliveIn F (2 * n - 1) = [2 * n - 2] := by
  have hlen := h.length_aliveIn h.le le_rfl
  have hroot := h.last_mem_aliveIn (by omega)
  obtain ⟨root, hsingle⟩ := List.length_eq_one_iff.mp (show (aliveIn F (2 * n - 1)).length = 1 by omega)
  rw [hsingle, List.mem_singleton] at hroot
  rw [hsingle, ← hroot]
  congr 1

/-! ### The abstract trees of a forest (10_state.md R34) -/

/-- `tree_of(i)`, with as many edges as any path from `i` can have. -/
def subtree (F : Nat → Node) (i : Nat) : Tree := treeOf F i i

theorem treeOf_of_leaf (d : Nat) (ht : (F i).tag = .leaf) : treeOf F d i = .leaf (F i).weight (F i).sym := by
  cases d <;> simp [treeOf, ht]

theorem treeOf_succ_of_internal (d : Nat) (ht : (F i).tag = .internal) : treeOf F (d + 1) i =
    .internal (F i).weight (treeOf F d (F i).left) (treeOf F d (F i).right) := by
  simp [treeOf, ht]

namespace Forest

variable (h : Forest F n m)
include h

/-- Below the root of a path the bound of `treeOf` is never met (log 7). -/
theorem treeOf_eq_subtree {d : Nat} (hi : i < m) (hd : i ≤ d) : treeOf F d i = subtree F i := by
  induction i using Nat.strong_induction_on generalizing d with
  | _ i ih =>
    cases ht : (F i).tag with
    | leaf => rw [subtree, treeOf_of_leaf d ht, treeOf_of_leaf i ht]
    | internal =>
      obtain ⟨hl, hr⟩ := h.child_lt hi ht
      obtain ⟨d, rfl⟩ := Nat.exists_eq_succ_of_ne_zero (show d ≠ 0 by omega)
      obtain ⟨i, rfl⟩ := Nat.exists_eq_succ_of_ne_zero (show i ≠ 0 by omega)
      simp only [subtree, Nat.succ_eq_add_one, treeOf_succ_of_internal _ ht]
      rw [ih _ hl (by omega) (show _ ≤ d by omega), ih _ hl (by omega) (show _ ≤ i by omega),
        ih _ hr (by omega) (show _ ≤ d by omega), ih _ hr (by omega) (show _ ≤ i by omega)]

theorem subtree_leaf (hk : k < n) : subtree F k = .leaf (F k).weight (F k).sym :=
  treeOf_of_leaf k (h.leaf k hk)

theorem subtree_internal (hi : i < m) (ht : (F i).tag = .internal) :
    subtree F i = .internal (F i).weight (subtree F (F i).left) (subtree F (F i).right) := by
  obtain ⟨hl, hr⟩ := h.child_lt hi ht
  rw [← h.treeOf_eq_subtree hi (Nat.le_succ i), treeOf_succ_of_internal i ht,
    h.treeOf_eq_subtree (hl.trans hi) hl.le, h.treeOf_eq_subtree (hr.trans hi) hr.le]

theorem subtree_merge (hn : n ≤ i) (hm : i < m) :
    subtree F i = .internal (F i).weight (subtree F (F i).left) (subtree F (F i).right) :=
  h.subtree_internal hm (h.merge i hn hm).tag

theorem weight_subtree (hi : i < m) : (subtree F i).weight = (F i).weight := by
  cases ht : (F i).tag with
  | leaf => rw [subtree, treeOf_of_leaf i ht, Tree.weight]
  | internal => rw [h.subtree_internal hi ht, Tree.weight]

end Forest

/-- Over a forest, what adds up over the branches of a tree adds up over the Leaves. -/
theorem Forest.sum_subtrees {M : Type} [AddCommMonoid M] (h : Forest F n m) (f : Tree → M)
    (hf : ∀ w l r, f (.internal w l r) = f l + f r) (hn : n ≤ i) (hm : i ≤ m) :
    ((aliveIn F i).map fun j => f (subtree F j)).sum =
      ((List.range n).map fun k => f (.leaf (F k).weight (F k).sym)).sum := by
  rw [h.sum_aliveIn (fun j => f (subtree F j)) (fun i hn hm => by rw [h.subtree_merge hn hm, hf]) hn hm]
  exact congrArg List.sum (List.map_congr_left fun k hk => by rw [h.subtree_leaf (List.mem_range.mp hk)])

/-- The Leaves of a finished tree are the Leaf slots. -/
theorem Forest.symbols_root (h : Forest F n (2 * n - 1)) (hn : 1 ≤ n) :
    (subtree F (2 * n - 2)).symbols.Perm ((List.range n).map fun k => (F k).sym) := by
  have hsum := h.sum_subtrees (fun t => (t.symbols : Multiset Symbol)) (fun _ _ _ => rfl) h.le le_rfl
  rw [h.aliveIn_root hn] at hsum
  have hleaves : ∀ ks : List Nat, (ks.map fun k => ((Tree.leaf (F k).weight (F k).sym).symbols : Multiset Symbol)).sum =
      ((ks.map fun k => (F k).sym : List Symbol) : Multiset Symbol) := by
    intro ks
    induction ks with
    | nil => rfl
    | cons k ks ih => rw [List.map_cons, List.sum_cons, ih, List.map_cons]; rfl
  rw [hleaves] at hsum
  simpa using hsum

/-- The weight of the root is the sum of the Leaves' (R122). -/
theorem Forest.weight_root (h : Forest F n (2 * n - 1)) (hn : 1 ≤ n) :
    (F (2 * n - 2)).weight = ((List.range n).map fun k => (F k).weight).sum := by
  have hsum := h.sum_aliveIn (fun i => (F i).weight) (fun i hn hm => (h.merge i hn hm).weight) h.le le_rfl
  simpa [h.aliveIn_root hn] using hsum

end Sys2Proof.Machine
end

section
/-! PROOF. The codes of an abstract tree (41_gentab.md R141, R144; 30_encoding.md R98). -/

namespace Sys2Proof.Machine

variable {T root : Tree} {w : Nat} {l r : Tree} {x y : Symbol} {p q bits : List Bit}

/-! ### The paths of a tree -/

/-- The subtree a bit leads to. -/
def branch (l r : Tree) (b : Bit) : Tree := if b then r else l

theorem Tree.codes_eq_map (T : Tree) (path : List Bit) :
    T.codes path = (T.codes []).map fun e => (e.1, path ++ e.2) := by
  induction T generalizing path with
  | leaf w x => simp [Tree.codes]
  | internal w l r ihl ihr =>
    simp only [Tree.codes, List.nil_append]
    rw [ihl, ihr, ihl [false], ihr [true]]
    simp [Function.comp_def]

theorem Tree.codes_internal (w : Nat) (l r : Tree) : (Tree.internal w l r).codes [] =
    (l.codes []).map (fun e => (e.1, false :: e.2)) ++ (r.codes []).map fun e => (e.1, true :: e.2) := by
  rw [Tree.codes, l.codes_eq_map, r.codes_eq_map]
  rfl

@[simp] theorem Tree.mem_codes_leaf : (x, p) ∈ (Tree.leaf w y).codes [] ↔ x = y ∧ p = [] := by simp [Tree.codes]

/-- A path in a tree with branches is a bit, and a path in the branch it leads to. -/
theorem Tree.mem_codes_internal : (x, p) ∈ (Tree.internal w l r).codes [] ↔
    ∃ b q, p = b :: q ∧ (x, q) ∈ (branch l r b).codes [] := by
  simp only [Tree.codes_internal, List.mem_append, List.mem_map, Prod.mk.injEq, Prod.exists]
  constructor
  · rintro (⟨_, q, hq, rfl, rfl⟩ | ⟨_, q, hq, rfl, rfl⟩)
    · exact ⟨false, q, rfl, hq⟩
    · exact ⟨true, q, rfl, hq⟩
  · rintro ⟨b, q, rfl, hq⟩
    cases b
    · exact .inl ⟨x, q, hq, rfl, rfl⟩
    · exact .inr ⟨x, q, hq, rfl, rfl⟩

@[simp] theorem Tree.keys_codes (T : Tree) : (T.codes []).map Prod.fst = T.symbols := by
  induction T with
  | leaf w x => rfl
  | internal w l r ihl ihr =>
    rw [Tree.codes_internal, List.map_append, List.map_map, List.map_map, Tree.symbols, ← ihl, ← ihr]
    rfl

theorem Tree.one_le_length_symbols (T : Tree) : 1 ≤ T.symbols.length := by
  induction T with
  | leaf w x => exact le_rfl
  | internal w l r ihl ihr => rw [Tree.symbols, List.length_append]; omega

/-- Each edge of a path leaves at least one Leaf aside. -/
theorem Tree.length_lt_of_mem_codes (h : (x, p) ∈ T.codes []) : p.length < T.symbols.length := by
  induction T generalizing p with
  | leaf w y => obtain ⟨rfl, rfl⟩ := Tree.mem_codes_leaf.mp h; exact Nat.one_pos
  | internal w l r ihl ihr =>
    obtain ⟨b, q, rfl, hq⟩ := Tree.mem_codes_internal.mp h
    have hl := l.one_le_length_symbols
    have hr := r.one_le_length_symbols
    rw [Tree.symbols, List.length_append, List.length_cons]
    cases b with
    | false => have := ihl hq; omega
    | true => have := ihr hq; omega

/-- Paths to Leaves part at some branch: if one continues the other, they lead to the same Leaf. -/
theorem Tree.eq_of_path_continues (hp : (x, p) ∈ T.codes []) (hq : (y, q) ∈ T.codes []) (h : p <+: q) : x = y := by
  induction T generalizing p q with
  | leaf w z => exact (Tree.mem_codes_leaf.mp hp).1.trans (Tree.mem_codes_leaf.mp hq).1.symm
  | internal w l r ihl ihr =>
    obtain ⟨b, p, rfl, hp'⟩ := Tree.mem_codes_internal.mp hp
    obtain ⟨b', q, rfl, hq'⟩ := Tree.mem_codes_internal.mp hq
    obtain ⟨rfl, hpq⟩ := List.cons_prefix_cons.mp h
    cases b with
    | false => exact ihl hp' hq' hpq
    | true => exact ihr hp' hq' hpq

/-! ### Looking a code up -/

/-- A listed symbol is found with one of its codes. -/
theorem mem_of_codeIn {table : List (Symbol × List Bit)} (h : x ∈ table.map Prod.fst) :
    (x, codeIn table x) ∈ table := by
  induction table with
  | nil => cases h
  | cons e rest ih =>
    obtain ⟨y, p⟩ := e
    by_cases hxy : x = y
    · subst hxy
      simp [codeIn]
    · have hlookup : codeIn ((y, p) :: rest) x = codeIn rest x := by
        simp [codeIn, List.lookup_cons, beq_eq_false_iff_ne.mpr hxy]
      rw [hlookup]
      exact List.mem_cons_of_mem _ (ih (by simpa [hxy] using h))

theorem codeIn_of_not_mem {table : List (Symbol × List Bit)} (h : x ∉ table.map Prod.fst) : codeIn table x = [] := by
  rw [codeIn, List.lookup_eq_none_iff.mpr]
  · rfl
  · intro e he
    rw [bne_iff_ne]
    rintro rfl
    exact h (List.mem_map_of_mem he)

theorem codeIn_of_mem {table : List (Symbol × List Bit)} (hnodup : (table.map Prod.fst).Nodup)
    (h : (x, p) ∈ table) : codeIn table x = p := by
  have hfound := mem_of_codeIn (List.mem_map_of_mem (f := Prod.fst) h)
  exact (Prod.mk.inj (List.inj_on_of_nodup_map hnodup hfound h rfl)).2

/-! ### The table of a tree (R141, R142, R144) -/

@[simp] theorem Tree.keys_table (T : Tree) : T.table.map Prod.fst = T.symbols := by
  cases T with
  | leaf w x => rfl
  | internal w l r => exact Tree.keys_codes _

theorem Tree.codeIn_table_mem (h : x ∈ T.symbols) : (x, codeIn T.table x) ∈ T.table :=
  mem_of_codeIn (by rwa [T.keys_table])

theorem Tree.codeIn_table_of_not_mem (h : x ∉ T.symbols) : codeIn T.table x = [] :=
  codeIn_of_not_mem (by rwa [T.keys_table])

theorem Tree.ne_nil_of_mem_table (h : (x, p) ∈ T.table) : p ≠ [] := by
  cases T with
  | leaf w y => simp only [Tree.table, List.mem_singleton, Prod.mk.injEq] at h; simp [h.2]
  | internal w l r =>
    rw [Tree.table, Tree.mem_codes_internal] at h
    obtain ⟨b, q, rfl, -⟩ := h
    exact List.cons_ne_nil b q

theorem Tree.codeIn_table_ne_nil_iff (T : Tree) (x : Symbol) : codeIn T.table x ≠ [] ↔ x ∈ T.symbols := by
  constructor
  · intro h
    by_contra hx
    exact h (Tree.codeIn_table_of_not_mem hx)
  · exact fun h => Tree.ne_nil_of_mem_table (Tree.codeIn_table_mem h)

theorem Tree.length_le_of_mem_table (h : (x, p) ∈ T.table) : p.length ≤ max 1 (T.symbols.length - 1) := by
  cases T with
  | leaf w y => simp only [Tree.table, List.mem_singleton, Prod.mk.injEq] at h; simp [h.2]
  | internal w l r => have := Tree.length_lt_of_mem_codes h; omega

theorem Tree.length_codeIn_table_le (T : Tree) (x : Symbol) :
    (codeIn T.table x).length ≤ max 1 (T.symbols.length - 1) := by
  by_cases hx : x ∈ T.symbols
  · exact Tree.length_le_of_mem_table (Tree.codeIn_table_mem hx)
  · rw [Tree.codeIn_table_of_not_mem hx]
    exact Nat.zero_le _

/-- On a tree with branches no code continues the code of another symbol. -/
theorem Tree.prefixFree_table (w : Nat) (l r : Tree) :
    PrefixFree (codeIn (Tree.internal w l r).table) (Tree.internal w l r).symbols :=
  fun _ hx _ hy hne h => hne (Tree.eq_of_path_continues (Tree.codeIn_table_mem hx) (Tree.codeIn_table_mem hy) h)

/-! ### Walking codes (43_decode.md R162, R163) -/

theorem Tree.decodeFrom_internal_cons (w : Nat) (l r : Tree) (inCode : List Bit) (b : Bit) :
    root.decodeFrom (.internal w l r) inCode (b :: bits) =
      match branch l r b with
      | .leaf _ x => (x :: (root.decodeFrom root [] bits).1, (root.decodeFrom root [] bits).2)
      | .internal w l' r' => root.decodeFrom (.internal w l' r') (inCode ++ [b]) bits := rfl

/-- A walk along a path emits its Leaf and is back at the root. -/
theorem Tree.decodeFrom_of_path {inCode : List Bit} (h : (x, p) ∈ (Tree.internal w l r).codes []) :
    root.decodeFrom (.internal w l r) inCode (p ++ bits) =
      (x :: (root.decodeFrom root [] bits).1, (root.decodeFrom root [] bits).2) := by
  induction p generalizing w l r inCode with
  | nil => obtain ⟨b, q, hq, -⟩ := Tree.mem_codes_internal.mp h; cases hq
  | cons b q ih =>
    obtain ⟨b, q, hbq, hq⟩ := Tree.mem_codes_internal.mp h
    cases hbq
    rw [List.cons_append, Tree.decodeFrom_internal_cons]
    cases hbranch : branch l r b with
    | leaf w' y =>
      rw [hbranch, Tree.mem_codes_leaf] at hq
      obtain ⟨rfl, rfl⟩ := hq
      rfl
    | internal w' l' r' =>
      rw [hbranch] at hq
      exact ih hq

/-- Settles O55: each code is a path, so each walk ends at its Leaf. -/
theorem codesDecodeBack : Obligations.CodesDecodeBack := by
  intro w l r xs _ hxs
  induction xs with
  | nil => rfl
  | cons x xs ih =>
    obtain ⟨hx, hxs⟩ := List.forall_mem_cons.mp hxs
    have ih := ih hxs
    rw [Tree.decodeBits] at ih ⊢
    rw [concatCodes_cons, Tree.decodeFrom_of_path (Tree.codeIn_table_mem hx), ih]

/-! ### The weighted length of a code (R123) -/

/-- The weights of a tree over the counts `c` of its symbols. -/
def Tree.Weighs (c : Symbol → Nat) : Tree → Prop
  | .leaf w x => w = c x
  | .internal w l r => w = l.weight + r.weight ∧ l.Weighs c ∧ r.Weighs c

/-- The sum of the weights of the Internal nodes. -/
def Tree.cost : Tree → Nat
  | .leaf _ _ => 0
  | .internal w l r => w + l.cost + r.cost

theorem Tree.Weighs.sum_symbols {c : Symbol → Nat} (h : T.Weighs c) : (T.symbols.map c).sum = T.weight := by
  induction T with
  | leaf w x => simpa [Tree.symbols, Tree.weight] using h.symm
  | internal w l r ihl ihr =>
    obtain ⟨hw, hl, hr⟩ := h
    rw [Tree.symbols, List.map_append, List.sum_append, ihl hl, ihr hr, Tree.weight, hw]

/-- Every Leaf pays its weight once for each Internal node above it. -/
theorem Tree.Weighs.sum_codes {c : Symbol → Nat} (h : T.Weighs c) :
    ((T.codes []).map fun e => c e.1 * e.2.length).sum = T.cost := by
  induction T with
  | leaf w x => simp [Tree.codes, Tree.cost]
  | internal w l r ihl ihr =>
    obtain ⟨hw, hl, hr⟩ := h
    have one_more : ∀ (T : Tree) (b : Bit), T.Weighs c →
        (((T.codes []).map fun e => (e.1, b :: e.2)).map fun e => c e.1 * e.2.length).sum =
          ((T.codes []).map fun e => c e.1 * e.2.length).sum + T.weight := by
      intro T b hT
      have hkeys : ((T.codes []).map fun e => c e.1).sum = T.weight := by
        rw [← hT.sum_symbols, ← T.keys_codes, List.map_map]
        rfl
      rw [← hkeys, ← List.sum_map_add, List.map_map]
      rfl
    rw [Tree.codes_internal, List.map_append, List.sum_append, one_more l false hl, one_more r true hr, ihl hl, ihr hr,
      Tree.cost, hw]
    omega

/-- A text over the symbols of a tree costs, code by code, what the counts say. -/
theorem Tree.sum_code_lengths {text : List Symbol} (hnodup : T.symbols.Nodup) (hsub : text ⊆ T.symbols) :
    (concatCodes (codeIn T.table) text).length = (T.table.map fun e => text.count e.1 * e.2.length).sum := by
  rw [length_concatCodes, sum_map_eq_sum_count _ hnodup hsub, ← T.keys_table, List.map_map]
  refine congrArg List.sum (List.map_congr_left fun e he => ?_)
  rw [Function.comp_apply, codeIn_of_mem (by rwa [T.keys_table]) he]

end Sys2Proof.Machine
end

section
/-! PROOF. BUILD keeps a forest (40_build.md R113 to R122): the collection Q holds the slots without a parent, each pass
merges the two least of them, and the last merge leaves one tree. -/

namespace Sys2Proof.Machine

variable {F : Nat → Node} {n : Nat} {b : Builder}

/-! ### What ties the builder to a node table -/

/-- The member of Q that stands for slot `j`. -/
def entryAt (F : Nat → Node) (j : Nat) : Entry := { slot := j, node := F j }

/-- The table `F` holds the slots written so far. -/
def Agrees (F : Nat → Node) (nodes : List Node) : Prop := ∀ k v, nodes[k]? = some v → F k = v

theorem Agrees.of_isPrefix {nodes nodes' : List Node} (h : Agrees F nodes') (hp : nodes <+: nodes') : Agrees F nodes :=
  fun k v hv => h k v (getElem?_eq_some_of_isPrefix hp hv)

/-- The slots written so far are a forest over `n` Leaves, and Q holds the slots without a parent. -/
structure Builder.Tracks (F : Nat → Node) (n : Nat) (b : Builder) : Prop where
  agrees : Agrees F b.nodes
  queue : b.queue.Perm ((aliveIn F b.nodes.length).map (entryAt F))
  forest : Forest F n b.nodes.length

/-- "Among Leaves a smaller slot index is a smaller symbol" (R116). -/
def LeavesRise (F : Nat → Node) (n : Nat) : Prop := ∀ i j, i < j → j < n → (F i).sym < (F j).sym

/-- Slot `i` merges the first of the slots then without a parent, and the first of the rest (R117). -/
structure MergesLeast (F : Nat → Node) (i : Nat) : Prop where
  left : ∀ j ∈ aliveIn F i, j ≠ (F i).left → before (entryAt F (F i).left) (entryAt F j) = true
  right : ∀ j ∈ aliveIn F i, j ≠ (F i).left → j ≠ (F i).right →
    before (entryAt F (F i).right) (entryAt F j) = true

theorem entryAt_injective (F : Nat → Node) : Function.Injective (entryAt F) := fun _ _ h => congrArg Entry.slot h

namespace Builder.Tracks

variable (h : b.Tracks F n)
include h

theorem mem_queue {e : Entry} : e ∈ b.queue ↔ ∃ j ∈ aliveIn F b.nodes.length, entryAt F j = e := by
  rw [h.queue.mem_iff, List.mem_map]

theorem slotsInOrder (hrise : LeavesRise F n) : SlotsInOrder b.queue where
  distinct := by
    rw [(h.queue.map Entry.slot).nodup_iff, List.map_map]
    exact (nodup_aliveIn F _).map fun _ _ heq => heq
  leaves := by
    intro e he f hf _ hleaf hlt
    obtain ⟨i, -, rfl⟩ := h.mem_queue.mp he
    obtain ⟨j, hj, rfl⟩ := h.mem_queue.mp hf
    refine hrise i j hlt ?_
    by_contra hn
    have hmerge := h.forest.merge j (by omega) (lt_of_mem_aliveIn hj)
    exact absurd (hmerge.tag.symm.trans hleaf) (by decide)

theorem length_queue : b.queue.length + b.nodes.length = 2 * n := by
  rw [h.queue.length_eq, List.length_map]
  exact h.forest.length_aliveIn h.forest.le le_rfl

/-- Merging two members of Q makes one tree of two. -/
theorem merge {l r : Entry} (hl : l ∈ b.queue) (hr : r ∈ b.queue) (hne : l ≠ r)
    (hagrees : Agrees F (b.merge ((b.queue.erase l).erase r) l r).nodes) :
    (b.merge ((b.queue.erase l).erase r) l r).Tracks F n ∧ F b.nodes.length = mergedNode l r := by
  obtain ⟨i, hi, rfl⟩ := h.mem_queue.mp hl
  obtain ⟨j, hj, rfl⟩ := h.mem_queue.mp hr
  have hnew : F b.nodes.length = mergedNode (entryAt F i) (entryAt F j) :=
    hagrees _ _ (by simp [Builder.merge])
  have hleft : (F b.nodes.length).left = i := by rw [hnew]; rfl
  have hright : (F b.nodes.length).right = j := by rw [hnew]; rfl
  have hmerge : IsMerge F b.nodes.length := by
    constructor
    case tag => rw [hnew]; rfl
    case sym => rw [hnew]; rfl
    case left => rwa [hleft]
    case right => rwa [hright]
    case ne => rw [hleft, hright]; exact fun heq => hne (congrArg _ heq)
    case weight => rw [hleft, hright, hnew]; rfl
  have hforest : Forest F n (b.nodes.length + 1) := by
    refine ⟨h.forest.le.trans (Nat.le_succ _), h.forest.leaf, fun k hk hlt => ?_⟩
    rcases Nat.lt_succ_iff_lt_or_eq.mp hlt with hlt | rfl
    · exact h.forest.merge k hk hlt
    · exact hmerge
  have hlen : (b.merge ((b.queue.erase (entryAt F i)).erase (entryAt F j)) (entryAt F i) (entryAt F j)).nodes.length =
      b.nodes.length + 1 := by simp [Builder.merge]
  refine ⟨⟨hagrees, ?_, hlen ▸ hforest⟩, hnew⟩
  rw [hlen]
  have halive := (hforest.aliveIn_succ h.forest.le (Nat.lt_succ_self _)).map (entryAt F)
  rw [hleft, hright, List.map_cons, List.map_erase (entryAt_injective F), List.map_erase (entryAt_injective F)] at halive
  refine (List.perm_append_singleton _ _).trans (List.Perm.trans ?_ halive.symm)
  rw [← hnew]
  exact ((h.queue.erase _).erase _).cons _

/-- A pass over two members or more makes the next slot, and the two it merges are the least. -/
theorem pass (hrise : LeavesRise F n) (hlen : 2 ≤ b.queue.length) : ∃ b', b.pass = some b' ∧
    b'.nodes.length = b.nodes.length + 1 ∧
    (Agrees F b'.nodes → b'.Tracks F n ∧ MergesLeast F b.nodes.length) := by
  obtain ⟨l, hl, r, hr, hne, hpass, hleast, hnext⟩ := (h.slotsInOrder hrise).pass_spec hlen
  refine ⟨_, hpass, by simp [Builder.merge], fun hagrees => ?_⟩
  obtain ⟨htracks, hnew⟩ := h.merge hl hr hne hagrees
  obtain ⟨i, hi, rfl⟩ := h.mem_queue.mp hl
  obtain ⟨j, hj, rfl⟩ := h.mem_queue.mp hr
  have hleft : (F b.nodes.length).left = i := by rw [hnew]; rfl
  have hright : (F b.nodes.length).right = j := by rw [hnew]; rfl
  have hinj := entryAt_injective F
  refine ⟨htracks, ⟨fun k hk hki => ?_, fun k hk hki hkj => ?_⟩⟩
  · rw [hleft] at hki ⊢
    exact hleast _ (h.mem_queue.mpr ⟨k, hk, rfl⟩) (hinj.ne hki)
  · rw [hleft] at hki
    rw [hright] at hkj ⊢
    exact hnext _ (h.mem_queue.mpr ⟨k, hk, rfl⟩) (hinj.ne hki) (hinj.ne hkj)

end Builder.Tracks

/-- The state of the builder when the loop is over: one tree, every slot made since `start` a merge of the least. -/
structure Builder.Finished (F : Nat → Node) (n start : Nat) (b : Builder) : Prop where
  tracks : b.Tracks F n
  single : b.queue.length = 1
  least : ∀ i, start ≤ i → i < b.nodes.length → MergesLeast F i

theorem Builder.Tracks.mergeLoop {fuel : Nat} (h : b.Tracks F n) (hrise : LeavesRise F n)
    (hagrees : Agrees F (mergeLoop fuel b).nodes) (hpos : 1 ≤ b.queue.length) (hfuel : b.queue.length ≤ fuel + 1) :
    (mergeLoop fuel b).Finished F n b.nodes.length := by
  induction fuel generalizing b with
  | zero => exact ⟨h, by simp only [Machine.mergeLoop]; omega, fun i hi hlt => absurd hlt (Nat.not_lt.mpr hi)⟩
  | succ fuel ih =>
    by_cases hlen : 2 ≤ b.queue.length
    · obtain ⟨b', hpass, hnodes, hkeeps⟩ := h.pass hrise hlen
      have hloop : Machine.mergeLoop (fuel + 1) b = Machine.mergeLoop fuel b' := by
        rw [Machine.mergeLoop, hpass]
      rw [hloop] at hagrees ⊢
      obtain ⟨htracks, hleast⟩ := hkeeps (hagrees.of_isPrefix (nodes_isPrefix_mergeLoop fuel b'))
      have hcount := h.length_queue
      have hcount' := htracks.length_queue
      obtain ⟨htracks', hsingle, hleast'⟩ := ih htracks hagrees (by omega) (by omega)
      refine ⟨htracks', hsingle, fun i hi hlt => ?_⟩
      rcases Nat.eq_or_lt_of_le hi with rfl | hi
      · exact hleast
      · exact hleast' i (by omega) hlt
    · have hloop : Machine.mergeLoop (fuel + 1) b = b := by
        rw [Machine.mergeLoop, Builder.pass_eq_none (by omega)]
      rw [hloop]
      exact ⟨h, by omega, fun i hi hlt => absurd hlt (Nat.not_lt.mpr hi)⟩

/-! ### Seeding (R113) -/

variable {freq : Memory Nat} {symbols : List Symbol}

theorem seedLeaves_getElem? (freq : Memory Nat) (symbols : List Symbol) (k : Nat) :
    (seedLeaves freq symbols).nodes[k]? = symbols[k]?.map fun x => leafNode (countOf freq x) x := by
  simp [seedLeaves]

theorem Agrees.leaf (h : Agrees F (seedLeaves freq symbols).nodes) {k : Nat} (hk : k < symbols.length) :
    F k = leafNode (countOf freq symbols[k]) symbols[k] :=
  h k _ (by simp [seedLeaves_getElem?, hk])

theorem Agrees.leavesRise (h : Agrees F (seedLeaves freq symbols).nodes) (hsorted : symbols.Pairwise (· < ·)) :
    LeavesRise F symbols.length := by
  intro i j hij hj
  rw [h.leaf (hij.trans hj), h.leaf hj]
  exact List.pairwise_iff_getElem.mp hsorted i j (hij.trans hj) hj hij

theorem seedLeaves_tracks (h : Agrees F (seedLeaves freq symbols).nodes) :
    (seedLeaves freq symbols).Tracks F symbols.length := by
  have hlen : (seedLeaves freq symbols).nodes.length = symbols.length := by simp [seedLeaves]
  have hforest : Forest F symbols.length symbols.length :=
    ⟨le_rfl, fun k hk => by rw [h.leaf hk]; rfl, fun i hi hlt => absurd hlt (Nat.not_lt.mpr hi)⟩
  refine ⟨h, ?_, hlen ▸ hforest⟩
  rw [hlen, hforest.aliveIn_leaves]
  refine List.Perm.of_eq (List.ext_getElem (by simp [seedLeaves]) fun k hk _ => ?_)
  have hk : k < symbols.length := by simpa [seedLeaves] using hk
  simp [seedLeaves, entryAt, h.leaf hk]

/-! ### The legacy rule (R119) -/

/-- The Leaf of a present symbol is found in Q. -/
theorem seedLeaves_find? {x : Symbol} (hnodup : symbols.Nodup) {k : Nat} (hk : symbols[k]? = some x) :
    (seedLeaves freq symbols).queue.find? (fun e => e.node.sym = x) =
      some { slot := k, node := leafNode (countOf freq x) x } := by
  obtain ⟨hlt, hkx⟩ := List.getElem?_eq_some_iff.mp hk
  refine List.find?_eq_some_iff_getElem.mpr ⟨by simp [leafNode], k, by simpa [seedLeaves] using hlt, ?_, fun i hi => ?_⟩
  · simp [seedLeaves, hkx]
  · have hne : symbols[i] ≠ x := by
      rw [← hkx]
      exact fun heq => absurd (hnodup.getElem_inj_iff.mp heq) (by omega)
    simpa [seedLeaves, leafNode] using hne

end Sys2Proof.Machine
end

section
/-! PROOF. BUILD as a whole (40_build.md R110 to R123): the finished NODE table is a tree over the symbols of the text. -/

namespace Sys2Proof.Machine

variable {F : Nat → Node} {n : Nat} {p : Params} {flag : Bool} {freq : Memory Nat} {symbols : List Symbol}

/-! ### From the Leaves to the finished table -/

/-- With both designated Leaves the legacy rule merges them, LEGACY_SYM_L on the left (R119). -/
theorem legacyPremerge_tracks (hnodup : symbols.Nodup) (hne : p.legacySymL ≠ p.legacySymR) {i j : Nat}
    (hi : symbols[i]? = some p.legacySymL) (hj : symbols[j]? = some p.legacySymR)
    (hagrees : Agrees F (legacyPremerge p (seedLeaves freq symbols)).nodes) :
    (legacyPremerge p (seedLeaves freq symbols)).Tracks F symbols.length ∧
    (legacyPremerge p (seedLeaves freq symbols)).nodes.length = symbols.length + 1 ∧
    F symbols.length =
      internalNode (countOf freq p.legacySymL + countOf freq p.legacySymR) i j := by
  have hlen : (seedLeaves freq symbols).nodes.length = symbols.length := by simp [seedLeaves]
  have hfindL := seedLeaves_find? (freq := freq) hnodup hi
  have hfindR := seedLeaves_find? (freq := freq) hnodup hj
  have hseeds := seedLeaves_tracks (hagrees.of_isPrefix (nodes_isPrefix_legacyPremerge p _))
  rw [legacyPremerge, hfindL, hfindR] at hagrees ⊢
  have hdistinct : ({ slot := i, node := leafNode (countOf freq p.legacySymL) p.legacySymL } : Entry) ≠
      { slot := j, node := leafNode (countOf freq p.legacySymR) p.legacySymR } :=
    fun heq => hne (congrArg (fun e : Entry => e.node.sym) heq)
  obtain ⟨htracks, hnew⟩ := hseeds.merge (List.mem_of_find?_eq_some hfindL) (List.mem_of_find?_eq_some hfindR)
    hdistinct hagrees
  rw [hlen] at hnew
  exact ⟨htracks, by simp [Builder.merge, hlen], hnew⟩

theorem nodup_presentSymbols (alpha : Nat) (freq : Memory Nat) : (presentSymbols alpha freq).Nodup :=
  List.nodup_range.filter _

theorem presentSymbols_sorted (alpha : Nat) (freq : Memory Nat) :
    (presentSymbols alpha freq).Pairwise (· < ·) := List.pairwise_lt_range.filter _

/-- A designated symbol with a count has a Leaf. -/
theorem exists_leaf_of_count {x : Symbol} (hx : x < p.alpha) (hcount : 0 < countOf freq x) :
    ∃ i : Nat, (presentSymbols p.alpha freq)[i]? = some x :=
  List.mem_iff_getElem?.mp (List.mem_filter.mpr ⟨List.mem_range.mpr hx, decide_eq_true hcount⟩)

/-- The number of slots made before the merge loop: the Leaves, and the legacy rule's node. -/
def startSlots (p : Params) (flag : Bool) (freq : Memory Nat) : Nat :=
  if legacyApplies p flag freq then (presentSymbols p.alpha freq).length + 1 else (presentSymbols p.alpha freq).length

theorem legacy_leaves (hp : p.Bounds) (happ : legacyApplies p flag freq = true) : ∃ i j : Nat,
    (presentSymbols p.alpha freq)[i]? = some p.legacySymL ∧ (presentSymbols p.alpha freq)[j]? = some p.legacySymR := by
  simp only [legacyApplies, Bool.and_eq_true, decide_eq_true_eq] at happ
  obtain ⟨⟨-, hcountL⟩, hcountR⟩ := happ
  obtain ⟨i, hi⟩ := exists_leaf_of_count hp.legacySymL_lt hcountL
  obtain ⟨j, hj⟩ := exists_leaf_of_count hp.legacySymR_lt hcountR
  exact ⟨i, j, hi, hj⟩

/-- What MergeLoop starts from. -/
theorem startMerging_tracks (hp : p.Bounds) (hpos : 1 ≤ (presentSymbols p.alpha freq).length)
    (hagrees : Agrees F (startMerging p flag freq (seedLeaves freq (presentSymbols p.alpha freq))).nodes) :
    (startMerging p flag freq (seedLeaves freq (presentSymbols p.alpha freq))).Tracks F
      (presentSymbols p.alpha freq).length ∧
    (startMerging p flag freq (seedLeaves freq (presentSymbols p.alpha freq))).nodes.length = startSlots p flag freq ∧
    1 ≤ (startMerging p flag freq (seedLeaves freq (presentSymbols p.alpha freq))).queue.length := by
  by_cases happ : legacyApplies p flag freq = true
  · rw [startMerging, if_pos happ] at hagrees ⊢
    rw [startSlots, if_pos happ]
    obtain ⟨i, j, hi, hj⟩ := legacy_leaves hp happ
    obtain ⟨htracks, hlen, -⟩ := legacyPremerge_tracks (nodup_presentSymbols _ _) hp.legacy_ne hi hj hagrees
    have hij : i ≠ j := fun heq => hp.legacy_ne (Option.some.inj (hi.symm.trans (heq ▸ hj)))
    obtain ⟨hilt, -⟩ := List.getElem?_eq_some_iff.mp hi
    obtain ⟨hjlt, -⟩ := List.getElem?_eq_some_iff.mp hj
    have hcount := htracks.length_queue
    exact ⟨htracks, hlen, by omega⟩
  · rw [startMerging, if_neg happ] at hagrees ⊢
    rw [startSlots, if_neg happ]
    exact ⟨seedLeaves_tracks hagrees, by simp [seedLeaves], by simpa [seedLeaves] using hpos⟩

/-- The whole of BUILD's tree: one root is left, and every slot the merge loop made merges the least. -/
theorem buildNodes_finished (hp : p.Bounds) (hpos : 1 ≤ (presentSymbols p.alpha freq).length)
    (hagrees : Agrees F (buildNodes p flag freq).nodes) :
    (buildNodes p flag freq).Finished F (presentSymbols p.alpha freq).length (startSlots p flag freq) := by
  have hseeds := hagrees.of_isPrefix (seedLeaves_isPrefix_buildNodes p flag freq)
  have hlen : (seedLeaves freq (presentSymbols p.alpha freq)).nodes.length = (presentSymbols p.alpha freq).length := by
    simp [seedLeaves]
  unfold buildNodes finishTree at hagrees ⊢
  split at hagrees
  case isTrue hone =>
    rw [if_pos hone]
    have htracks := seedLeaves_tracks hseeds
    have hcount := htracks.length_queue
    have hstart : (presentSymbols p.alpha freq).length ≤ startSlots p flag freq := by unfold startSlots; split <;> omega
    exact ⟨htracks, by omega, fun i hi hlt => by omega⟩
  case isFalse hmany =>
    rw [if_neg hmany]
    obtain ⟨htracks, hstart, hqueue⟩ :=
      startMerging_tracks hp hpos (hagrees.of_isPrefix (nodes_isPrefix_mergeLoop _ _))
    rw [← hstart]
    exact htracks.mergeLoop (hseeds.leavesRise (presentSymbols_sorted _ _)) hagrees hqueue (Nat.le_succ _)

/-! ### The state BUILD leads to -/

variable {s : State}

theorem State.built_nodeAt (s : State) {k : Nat} {v : Node}
    (h : (buildNodes s.params s.cfg.legacyCd s.textCounts).nodes[k]? = some v) : s.built.nodeAt k = v := by
  simp [State.nodeAt, State.built_node, h]

theorem State.built_agrees (s : State) :
    Agrees s.built.nodeAt (buildNodes s.params s.cfg.legacyCd s.textCounts).nodes := fun _ _ => s.built_nodeAt

theorem State.present_pos (h : s.textLen ≠ 0) : 1 ≤ s.present.length := by
  have hlen : s.textSymbols ≠ [] := by
    intro hnil
    have := s.length_textSymbols
    rw [hnil] at this
    exact h (BitVec.eq_of_toNat_eq this.symm)
  obtain ⟨x, hx⟩ := List.exists_mem_of_ne_nil _ hlen
  exact List.length_pos_of_mem (a := x)
    (List.mem_filter.mpr ⟨List.mem_range.mpr (State.lt_alpha_of_mem_text hx), decide_eq_true hx⟩)

theorem State.present_le (s : State) : s.present.length ≤ s.params.alpha := by
  simpa [State.present] using List.length_filter_le (fun x => decide (x ∈ s.textSymbols)) (List.range s.params.alpha)

theorem State.mem_present {x : Symbol} : x ∈ s.present ↔ x ∈ s.textSymbols := by
  simp only [State.present, List.mem_filter, List.mem_range, decide_eq_true_eq, and_iff_right_iff_imp]
  exact State.lt_alpha_of_mem_text

theorem State.nodup_present (s : State) : s.present.Nodup := List.nodup_range.filter _

theorem State.built_finished (hp : s.params.Bounds) (h : s.textLen ≠ 0) :
    (buildNodes s.params s.cfg.legacyCd s.textCounts).Finished s.built.nodeAt s.present.length
      (startSlots s.params s.cfg.legacyCd s.textCounts) := by
  have hfinished := buildNodes_finished (flag := s.cfg.legacyCd) hp
    (by rw [s.presentSymbols_textCounts]; exact State.present_pos h) s.built_agrees
  rwa [s.presentSymbols_textCounts] at hfinished

/-- 2 N − 1 slots are written (R121). -/
theorem State.length_built_nodes (hp : s.params.Bounds) (h : s.textLen ≠ 0) :
    (buildNodes s.params s.cfg.legacyCd s.textCounts).nodes.length = 2 * s.present.length - 1 := by
  obtain ⟨htracks, hsingle, -⟩ := State.built_finished hp h
  have := htracks.length_queue
  omega

theorem State.built_forest (hp : s.params.Bounds) (h : s.textLen ≠ 0) :
    Forest s.built.nodeAt s.present.length (2 * s.present.length - 1) :=
  State.length_built_nodes hp h ▸ (State.built_finished hp h).tracks.forest

/-- The k-th Leaf, as SeedLeaves wrote it. -/
theorem State.built_leaf (s : State) {k : Nat} (hk : k < s.present.length) :
    s.built.nodeAt k = leafNode (s.textSymbols.count s.present[k]) s.present[k] := by
  refine s.built_nodeAt (getElem?_eq_some_of_isPrefix (seedLeaves_isPrefix_buildNodes _ _ _) ?_)
  rw [seedLeaves_getElem?, s.presentSymbols_textCounts]
  simp [hk]

theorem State.built_nleaf_toNat (hp : s.params.Bounds) : s.built.nleaf.toNat = s.present.length := by
  have := s.present_le
  have := hp.alpha_le
  rw [State.built_nleaf, BitVec.toNat_ofNat, Nat.mod_eq_of_lt (by omega)]

theorem State.built_nodeCnt_toNat (hp : s.params.Bounds) : s.built.nodeCnt.toNat = 2 * s.present.length - 1 := by
  have := s.present_le
  have := hp.alpha_le
  rw [State.built_nodeCnt, BitVec.toNat_ofNat, Nat.mod_eq_of_lt (by omega)]

/-- ROOT is the last slot (R114, R122). -/
theorem State.built_root_toNat (hp : s.params.Bounds) (h : s.textLen ≠ 0) :
    s.built.root.toNat = 2 * s.present.length - 2 := by
  have hle := s.present_le
  have halpha := hp.alpha_le
  obtain ⟨htracks, hsingle, -⟩ := State.built_finished hp h
  have hqueue := htracks.queue
  rw [State.length_built_nodes hp h, (State.built_forest hp h).aliveIn_root (State.present_pos h), List.map_singleton,
    List.perm_singleton] at hqueue
  rw [State.built_root, Builder.rootSlot, hqueue, BitVec.toNat_ofNat]
  exact Nat.mod_eq_of_lt (a := 2 * s.present.length - 2) (by omega)

theorem State.built_rootSlot (hp : s.params.Bounds) (h : s.textLen ≠ 0) :
    s.built.rootSlot = 2 * s.present.length - 2 := by
  have hle := s.present_le
  have hpos := State.present_pos h
  rw [State.rootSlot, State.built_root_toNat hp h, State.built_params, Params.two_pow_idxW, Nat.mod_eq_of_lt (by omega)]

/-- A sum over the Leaf slots is a sum over the present symbols. -/
theorem State.map_range_present {α : Type} (s : State) (f : Nat → α) (g : Symbol → α)
    (hfg : ∀ k (hk : k < s.present.length), f k = g s.present[k]) :
    (List.range s.present.length).map f = s.present.map g := by
  refine List.ext_getElem (by simp) fun k hk _ => ?_
  have hk : k < s.present.length := by simpa using hk
  simp [hfg k hk]

/-- The root weighs as much as the text is long (R122). -/
theorem State.built_rootWeight (hp : s.params.Bounds) (h : s.textLen ≠ 0) :
    (s.built.nodeAt s.built.rootSlot).weight = s.textLen.toNat := by
  have hsum := sum_map_eq_sum_count (fun _ => 1) s.nodup_present fun x hx => State.mem_present.mpr hx
  rw [State.built_rootSlot hp h, (State.built_forest hp h).weight_root (State.present_pos h),
    s.map_range_present _ (fun x => s.textSymbols.count x) fun k hk => by rw [s.built_leaf hk]; rfl]
  simpa using hsum.symm

theorem State.built_node_isSome_iff (hp : s.params.Bounds) (h : s.textLen ≠ 0) (i : Nat) :
    (s.built.node.read i).isSome = true ↔ i < 2 * s.present.length - 1 := by
  rw [State.built_node, Memory.read_ofList, ← State.length_built_nodes hp h]
  simp

/-- Settles O31: the registers count what the merge loop wrote. -/
theorem buildCompletes : Obligations.BuildCompletes := by
  intro s hp h
  have hp := Params.bounds_of_wellFormed hp
  have hframe := execBuild_frame (exec_build_of_text h)
  refine ⟨s.built, exec_build_of_text h, State.succeed_succeeded _, rfl, rfl, State.built_nleaf_toNat hp,
    State.built_nodeCnt_toNat hp, ?root, State.built_node_isSome_iff hp h, State.built_rootWeight hp h,
    fun j => ⟨rfl, rfl⟩, hframe⟩
  case root =>
    rw [State.built_root_toNat hp h]
    split <;> omega

/-- Settles O36: the legacy rule's node is the first after the Leaves, and no later one replaces it. -/
theorem legacyRuleMergesFirst : Obligations.LegacyRuleMergesFirst := by
  intro s hp h hlegacy
  have hp := Params.bounds_of_wellFormed hp
  have happ := s.legacyApplies_iff_legacyNow.mpr hlegacy
  obtain ⟨i, j, hi, hj⟩ := legacy_leaves hp happ
  rw [s.presentSymbols_textCounts] at hi hj
  obtain ⟨hilt, hix⟩ := List.getElem?_eq_some_iff.mp hi
  obtain ⟨hjlt, hjx⟩ := List.getElem?_eq_some_iff.mp hj
  have hij : i ≠ j := fun heq => hp.legacy_ne (Option.some.inj (hi.symm.trans (heq ▸ hj)))
  have hbuild : (legacyPremerge s.params (seedLeaves s.textCounts s.present)).nodes <+:
      (buildNodes s.params s.cfg.legacyCd s.textCounts).nodes := by
    have hmany : ¬ (seedLeaves s.textCounts s.present).nodes.length = 1 := by simp [seedLeaves]; omega
    rw [buildNodes, s.presentSymbols_textCounts, finishTree, if_neg hmany, startMerging, if_pos happ]
    exact nodes_isPrefix_mergeLoop _ _
  obtain ⟨-, -, hnew⟩ := legacyPremerge_tracks s.nodup_present hp.legacy_ne hi hj (s.built_agrees.of_isPrefix hbuild)
  have hsome : (s.built.node.read s.present.length).isSome = true :=
    (State.built_node_isSome_iff hp h _).mpr (by omega)
  obtain ⟨v, hv⟩ := Option.isSome_iff_exists.mp hsome
  have hslot : s.built.nodeAt s.present.length = v := by simp [State.nodeAt, hv]
  rw [hslot, s.countOf_textCounts, s.countOf_textCounts] at hnew
  refine ⟨s.built, exec_build_of_text h, i, hilt, j, hjlt, ?_, ?_, v, hv, ?_⟩
  · rw [s.built_leaf hilt, hix]; rfl
  · rw [s.built_leaf hjlt, hjx]; rfl
  · rw [hnew]; exact ⟨rfl, rfl, rfl, rfl, rfl⟩

theorem State.built_mergesLeast (hp : s.params.Bounds) (h : s.textLen ≠ 0) {i : Nat} (hi : s.present.length ≤ i)
    (hlt : i < 2 * s.present.length - 1) (hlegacy : i = s.present.length → ¬ s.legacyNow) :
    MergesLeast s.built.nodeAt i := by
  refine (State.built_finished hp h).least i ?_ (by rwa [State.length_built_nodes hp h])
  rw [startSlots, s.presentSymbols_textCounts]
  split
  case isTrue happ =>
    have : i ≠ s.present.length := fun heq => hlegacy heq (s.legacyApplies_iff_legacyNow.mp happ)
    omega
  case isFalse => exact hi

/-- Settles O35: the merge loop's invariant, read off the finished table. -/
theorem everyInternalSlotMergesTheTwoLeast : Obligations.EveryInternalSlotMergesTheTwoLeast := by
  intro s hp h
  have hp := Params.bounds_of_wellFormed hp
  refine ⟨s.built, exec_build_of_text h, fun i hi hlt hlegacy => ?_⟩
  obtain ⟨hleast, hnext⟩ := State.built_mergesLeast hp h hi hlt hlegacy
  have hmerge := (State.built_forest hp h).merge i hi hlt
  rw [State.alive_eq]
  exact ⟨hmerge.left, hmerge.right, hmerge.ne, hleast, hnext⟩

end Sys2Proof.Machine
end

section
/-! PROOF. The invariant of the tree (10_state.md R35): it is a forest of one tree, and BUILD establishes it. -/

namespace Sys2Proof.Machine

variable {s t : State} {n m j k : Nat}

/-! ### Parents -/

theorem State.mem_parentsOf : k ∈ s.parentsOf j ↔
    k < s.nodeCnt.toNat ∧ (s.nodeAt k).tag = .internal ∧ ((s.nodeAt k).left = j ∨ (s.nodeAt k).right = j) := by
  simp [State.parentsOf]

theorem State.nodup_parentsOf (s : State) (j : Nat) : (s.parentsOf j).Nodup := List.nodup_range.filter _

/-- The slots without a parent are those of the collection. -/
theorem State.parentsOf_eq_nil (h : j ∈ aliveIn s.nodeAt s.nodeCnt.toNat) : s.parentsOf j = [] := by
  refine List.eq_nil_iff_forall_not_mem.mpr fun k hk => ?_
  obtain ⟨hlt, htag, hchild⟩ := State.mem_parentsOf.mp hk
  obtain ⟨hl, hr⟩ := (mem_aliveIn.mp h).2 k hlt htag
  exact hchild.elim hl hr

/-- A slot that left the collection left it once. -/
theorem Forest.length_parentsOf (h : Forest s.nodeAt n s.nodeCnt.toNat) (hj : j < s.nodeCnt.toNat)
    (hdead : j ∉ aliveIn s.nodeAt s.nodeCnt.toNat) : (s.parentsOf j).length = 1 := by
  have hparent : ∃ k, k ∈ s.parentsOf j := by
    by_contra hnone
    refine hdead (mem_aliveIn.mpr ⟨hj, fun k hk ht => ?_⟩)
    have hk' := not_exists.mp hnone k
    rw [State.mem_parentsOf] at hk'
    tauto
  obtain ⟨k, hk⟩ := hparent
  have no_second : ∀ k ∈ s.parentsOf j, ∀ k' ∈ s.parentsOf j, ¬ k < k' := by
    intro k hk k' hk' hlt
    obtain ⟨-, htag, hchild⟩ := State.mem_parentsOf.mp hk
    obtain ⟨hk'm, htag', hchild'⟩ := State.mem_parentsOf.mp hk'
    have hmerge := h.merge k' (h.le_of_internal htag') hk'm
    have halive : j ∈ aliveIn s.nodeAt k' := by
      rcases hchild' with rfl | rfl
      · exact hmerge.left
      · exact hmerge.right
    obtain ⟨hl, hr⟩ := (mem_aliveIn.mp halive).2 k hlt htag
    exact hchild.elim hl hr
  have hsingle : (s.parentsOf j).Perm [k] := by
    refine (List.perm_ext_iff_of_nodup (s.nodup_parentsOf j) (List.nodup_singleton k)).mpr fun k' => ?_
    rw [List.mem_singleton]
    refine ⟨fun hk' => ?_, fun heq => heq ▸ hk⟩
    have h1 := no_second k hk k' hk'
    have h2 := no_second k' hk' k hk
    omega
  exact hsingle.length_eq

/-- In a table where every slot has one parent at most, a child of a later slot has no earlier parent. -/
theorem State.mem_aliveIn_of_parent {i : Nat} (hone : (s.parentsOf j).length = 1) (hi : i ∈ s.parentsOf j)
    (hlt : j < i) : j ∈ aliveIn s.nodeAt i := by
  obtain ⟨k, hk⟩ := List.length_eq_one_iff.mp hone
  have hik : i = k := List.mem_singleton.mp (hk ▸ hi)
  obtain ⟨hm, -, -⟩ := State.mem_parentsOf.mp hi
  refine mem_aliveIn.mpr ⟨hlt, fun k' hk' ht => ?_⟩
  have hnot : k' ∉ s.parentsOf j := fun hmem => by
    have := List.mem_singleton.mp (hk ▸ hmem)
    omega
  rw [State.mem_parentsOf] at hnot
  exact ⟨fun hc => hnot ⟨by omega, ht, .inl hc⟩, fun hc => hnot ⟨by omega, ht, .inr hc⟩⟩

/-! ### What the invariant gives -/

/-- The abstract tree of a state whose table is a forest of one tree. -/
theorem State.tree_eq_subtree (h : Forest s.nodeAt n (2 * n - 1)) (hpos : 1 ≤ n) (hle : n ≤ s.params.alpha)
    (hroot : s.rootSlot = 2 * n - 2) : s.tree = subtree s.nodeAt (2 * n - 2) := by
  rw [State.tree, hroot]
  exact h.treeOf_eq_subtree (by omega) (by rw [Params.maxNode]; omega)

namespace State.HoldsTree

variable (h : s.HoldsTree)
include h

theorem one_le : 1 ≤ s.nleaf.toNat := h.leaves.1

theorem le_alpha : s.nleaf.toNat ≤ s.params.alpha := h.leaves.2

theorem rootSlot_eq : s.rootSlot = 2 * s.nleaf.toNat - 2 := by
  have hroot : s.root.toNat = 2 * s.nleaf.toNat - 2 := by
    rw [h.root]
    split <;> omega
  have hle := h.le_alpha
  have hpos := h.one_le
  rw [State.rootSlot, hroot, Params.two_pow_idxW, Nat.mod_eq_of_lt (by omega)]

/-- R35's one-parent clauses say that the table was made by merges. -/
theorem forest : Forest s.nodeAt s.nleaf.toNat (2 * s.nleaf.toNat - 1) where
  le := by have := h.one_le; omega
  leaf k hk := (h.leaf k hk).1
  merge := by
    intro i hi hlt
    obtain ⟨htag, hsym, hl, hr, hne, hweight⟩ := h.internal i hlt hi
    have child : ∀ j, j < i → (s.nodeAt i).left = j ∨ (s.nodeAt i).right = j → j ∈ aliveIn s.nodeAt i := by
      intro j hj hchild
      have hparent : i ∈ s.parentsOf j := State.mem_parentsOf.mpr ⟨by rw [h.nodeCnt]; exact hlt, htag, hchild⟩
      refine State.mem_aliveIn_of_parent (h.oneParent j (by omega) fun hroot => ?_) hparent hj
      rw [hroot, h.rootFree] at hparent
      exact absurd hparent List.not_mem_nil
    exact ⟨htag, hsym, child _ hl (.inl rfl), child _ hr (.inr rfl), hne, hweight⟩

theorem tree_eq : s.tree = subtree s.nodeAt (2 * s.nleaf.toNat - 2) :=
  State.tree_eq_subtree h.forest h.one_le h.le_alpha h.rootSlot_eq

/-- The tree's symbols are those with a count. -/
theorem symbols_perm :
    s.tree.symbols.Perm ((List.range s.params.alpha).filter fun x => decide (0 < s.freqAt x)) := by
  rw [h.tree_eq, ← h.symbols]
  exact h.forest.symbols_root h.one_le

theorem mem_symbols {x : Symbol} : x ∈ s.tree.symbols ↔ x < s.params.alpha ∧ 0 < s.freqAt x := by
  rw [h.symbols_perm.mem_iff, List.mem_filter, List.mem_range, decide_eq_true_eq]

theorem nodup_symbols : s.tree.symbols.Nodup := h.symbols_perm.nodup_iff.mpr (List.nodup_range.filter _)

theorem lt_alpha {x : Symbol} (hx : x ∈ s.tree.symbols) : x < s.params.alpha := (h.mem_symbols.mp hx).1

theorem length_symbols : s.tree.symbols.length = s.nleaf.toNat := by
  rw [h.symbols_perm.length_eq, ← h.symbols, List.length_map, List.length_range]

/-- With two Leaves or more the root is a branch. -/
theorem tree_internal (hn : 2 ≤ s.nleaf.toNat) : ∃ w l r, s.tree = .internal w l r :=
  ⟨_, _, _, h.tree_eq.trans (h.forest.subtree_merge (by omega) (by omega))⟩

theorem length_code_le (x : Symbol) : (codeIn s.tree.table x).length ≤ s.params.maxLen := by
  have hlen := s.tree.length_codeIn_table_le x
  have hle := h.le_alpha
  rw [h.length_symbols] at hlen
  rw [Params.maxLen]
  omega

end State.HoldsTree

/-- Settles O44: facts about every tree, read for the tree in NODE. -/
theorem tableOfATreeIsAPrefixCode : Obligations.TableOfATreeIsAPrefixCode := by
  refine fun s _ h => ⟨fun x hx => ?_, fun x _ => h.length_code_le x, fun hn => ?_⟩
  · rw [s.tree.codeIn_table_ne_nil_iff, h.mem_symbols, and_iff_right hx]
  · obtain ⟨w, l, r, htree⟩ := h.tree_internal hn
    intro x hx y hy
    have hfree := Tree.prefixFree_table w l r
    rw [← htree] at hfree
    exact hfree x (h.symbols_perm.mem_iff.mpr hx) y (h.symbols_perm.mem_iff.mpr hy)

/-! ### BUILD establishes the invariant -/

/-- Which elements hold a value, for a memory in canonical form. -/
theorem Memory.keys_eq_range {α : Type} {m : Memory α} (hwf : Memory.wf m) {n : Nat}
    (h : ∀ i, (Memory.read m i).isSome = true ↔ i < n) : m.map Prod.fst = List.range n := by
  have hmem : ∀ i, i ∈ m.map Prod.fst ↔ i ∈ List.range n := by
    intro i
    rw [List.mem_range, ← h i, ← Option.ne_none_iff_isSome, ne_eq, Memory.read_eq_none_iff, not_not]
  exact List.Subset.antisymm_of_pairwise hwf List.pairwise_lt_range (fun i => (hmem i).mp) fun i => (hmem i).mpr

theorem State.count_le_textLen (s : State) (x : Symbol) : s.textSymbols.count x ≤ s.textLen.toNat :=
  s.length_textSymbols ▸ List.count_le_length

/-- A count fits its width, since the text fits its capacity (00_scope.md R6). -/
theorem State.built_freqAt (hp : s.params.Bounds) (hfit : s.textLen.toNat ≤ s.params.maxText) (x : Symbol)
    (hx : x < s.params.alpha) : s.built.freqAt x = s.textSymbols.count x := by
  have hcount := s.count_le_textLen x
  have hwidth := hp.maxText_lt_count
  rw [State.freqAt, State.built_freq, s.textCounts_read, if_pos hx, Option.getD_some, State.built_params,
    Nat.mod_eq_of_lt (by omega)]

theorem State.built_freqTotal (hp : s.params.Bounds) (hfit : s.textLen.toNat ≤ s.params.maxText) :
    s.built.freqTotal = s.textLen.toNat := by
  rw [← s.sum_counts, State.freqTotal]
  exact congrArg List.sum (List.map_congr_left fun x hx => State.built_freqAt hp hfit x (List.mem_range.mp hx))

theorem State.built_symbols (s : State) :
    ((List.range s.present.length).map fun k => (s.built.nodeAt k).sym) = s.present := by
  rw [s.map_range_present _ id fun k hk => by rw [s.built_leaf hk]; rfl, List.map_id]

theorem State.built_holdsTree (hp : s.params.Bounds) (h : s.textLen ≠ 0) (hfit : s.textLen.toNat ≤ s.params.maxText) :
    s.built.HoldsTree := by
  have hforest := State.built_forest hp h
  have hpos := State.present_pos h
  have hnleaf := State.built_nleaf_toNat (s := s) hp
  have hcnt := State.built_nodeCnt_toNat (s := s) hp
  have hroot := State.built_rootSlot hp h
  have halive := hforest.aliveIn_root hpos
  constructor
  case leaves => rw [hnleaf]; exact ⟨hpos, s.present_le⟩
  case nodeCnt => rw [hcnt, hnleaf]
  case slots => rw [hnleaf]; exact Memory.keys_eq_range (Memory.wf_ofList _) (State.built_node_isSome_iff hp h)
  case counts =>
    have hsome : ∀ x, (s.textCounts.read x).isSome = true ↔ x < s.params.alpha := by
      intro x
      rw [s.textCounts_read]
      split <;> simp [*]
    exact Memory.keys_eq_range (wf_countFrequencies _ _) hsome
  case leaf =>
    intro k hk
    rw [hnleaf] at hk
    have hx : s.present[k] < s.params.alpha := State.lt_alpha_of_mem_text (State.mem_present.mp (List.getElem_mem hk))
    rw [s.built_leaf hk]
    exact ⟨rfl, (State.built_freqAt hp hfit _ hx).symm, rfl, rfl⟩
  case symbols =>
    rw [hnleaf, s.built_symbols, State.built_params, State.present]
    refine List.filter_congr fun x hx => ?_
    rw [State.built_freqAt hp hfit x (List.mem_range.mp hx)]
    exact decide_eq_decide.mpr List.count_pos_iff.symm
  case internal =>
    intro i hlt hi
    rw [hnleaf] at hlt hi
    obtain ⟨htag, hsym, hl, hr, hne, hweight⟩ := hforest.merge i hi hlt
    exact ⟨htag, hsym, lt_of_mem_aliveIn hl, lt_of_mem_aliveIn hr, hne, hweight⟩
  case oneParent =>
    intro j hj hne
    rw [hnleaf, ← hcnt] at hj
    rw [← hcnt] at hforest halive
    rw [hroot] at hne
    exact hforest.length_parentsOf hj (by rw [halive, List.mem_singleton]; exact hne)
  case rootFree =>
    rw [← hcnt] at halive
    rw [hroot]
    exact State.parentsOf_eq_nil (by rw [halive]; exact List.mem_singleton_self _)
  case root =>
    rw [State.built_root_toNat hp h, hnleaf]
    split <;> omega
  case rootWeight => rw [State.built_rootWeight hp h, State.built_freqTotal hp hfit]
  case total => rw [State.built_freqTotal hp hfit]; exact hfit

/-- Settles O39: the invariant of the merge loop is the invariant of R35. -/
theorem buildEstablishesTheTreeInvariant : Obligations.BuildEstablishesTheTreeInvariant := by
  intro s hp h hfit
  have hp := Params.bounds_of_wellFormed hp
  exact ⟨s.built, exec_build_of_text h, State.built_holdsTree hp h hfit, State.built_rootWeight hp h⟩

end Sys2Proof.Machine
end

section
/-! PROOF. GENTAB writes the table of the abstract tree (41_gentab.md R140 to R143). -/

namespace Sys2Proof.Machine

variable {s t : State} {alpha : Nat}

/-! ### A sequence of SetCode -/

theorem codeIn_append_singleton (es : List (Symbol × List Bit)) (y : Symbol) (p : List Bit) (x : Symbol)
    (hy : y ∉ es.map Prod.fst) : codeIn (es ++ [(y, p)]) x = if x = y then p else codeIn es x := by
  rw [codeIn, List.lookup_append]
  split
  case isTrue hxy =>
    subst hxy
    rw [List.lookup_eq_none_iff.mpr]
    · simp
    · intro e he
      rw [bne_iff_ne]
      rintro rfl
      exact hy (List.mem_map_of_mem he)
  case isFalse hxy =>
    have hlast : List.lookup x [(y, p)] = none := by simp [List.lookup_cons, beq_eq_false_iff_ne.mpr hxy]
    rw [hlast, Option.or_none, codeIn]

/-- The rows of CODEBIT do not overlap (10_state.md R37). -/
theorem row_index_iff {x y i len : Nat} (hi : i < alpha) (hlen : len ≤ alpha) :
    (y * alpha ≤ x * alpha + i ∧ x * alpha + i < y * alpha + len) ↔ (x = y ∧ i < len) := by
  constructor
  · rintro ⟨hlow, hhigh⟩
    have hxy : x = y := by
      rcases Nat.lt_trichotomy x y with hlt | heq | hgt
      · have : (x + 1) * alpha ≤ y * alpha := Nat.mul_le_mul_right alpha hlt
        rw [Nat.succ_mul] at this
        omega
      · exact heq
      · have : (y + 1) * alpha ≤ x * alpha := Nat.mul_le_mul_right alpha hgt
        rw [Nat.succ_mul] at this
        omega
    subst hxy
    exact ⟨rfl, by omega⟩
  · rintro ⟨rfl, hlt⟩
    omega

/-- The tables after SetCode for each of a list of codes, one per symbol: each symbol's code, and nothing else. -/
theorem foldl_setCode_spec (es : List (Symbol × List Bit)) (hnodup : (es.map Prod.fst).Nodup)
    (hlen : ∀ e ∈ es, e.2.length ≤ alpha) {x : Symbol} (hx : x < alpha) :
    (es.foldl (setCode alpha) (emptyTables alpha)).codeLen.read x = some (codeIn es x).length ∧
    ∀ i < alpha, (es.foldl (setCode alpha) (emptyTables alpha)).codeBit.read (x * alpha + i) = (codeIn es x)[i]? := by
  induction es using List.reverseRecOn with
  | nil => exact ⟨emptyTables_codeLen_read hx, fun i _ => rfl⟩
  | append_singleton es e ih =>
    obtain ⟨y, p⟩ := e
    rw [List.map_append, List.nodup_append] at hnodup
    obtain ⟨hes, -, hdisjoint⟩ := hnodup
    have hy : y ∉ es.map Prod.fst := fun hmem => hdisjoint y hmem y (by simp) rfl
    have hp : p.length ≤ alpha := hlen (y, p) (by simp)
    obtain ⟨ihlen, ihbit⟩ := ih hes fun e he => hlen e (List.mem_append_left _ he)
    rw [List.foldl_append, List.foldl_cons, List.foldl_nil, codeIn_append_singleton es y p x hy]
    refine ⟨?_, fun i hi => ?_⟩
    · rw [setCode_codeLen_read, ihlen]
      split <;> rfl
    · rw [setCode_codeBit_read, ihbit i hi]
      simp only [row_index_iff hi hp]
      by_cases hxy : x = y
      · subst hxy
        by_cases hip : i < p.length
        · simp [hip]
        · simp [hip, codeIn_of_not_mem hy]
      · simp [hxy]

/-! ### GENTAB -/

theorem State.codeCalls_eq_table (s : State) : s.codeCalls = s.tree.table := by
  have hmax : ∃ d, s.params.maxNode = d + 1 := ⟨s.params.maxNode - 1, by
    have := s.params.alpha_pos
    rw [Params.maxNode]
    omega⟩
  obtain ⟨d, hd⟩ := hmax
  rw [State.codeCalls, State.tree, hd]
  cases ht : (s.nodeAt s.rootSlot).tag with
  | leaf => rw [treeOf_of_leaf _ ht]; rfl
  | internal =>
    simp only [walk_eq_codes]
    rw [treeOf_succ_of_internal d ht]
    rfl

/-- A tree whose table GENTAB can write: one code per symbol, and a row for each. -/
structure Tree.Fits (T : Tree) (alpha : Nat) : Prop where
  nodup : T.symbols.Nodup
  lt : ∀ x ∈ T.symbols, x < alpha

theorem Tree.Fits.length_symbols_le {T : Tree} (h : T.Fits alpha) : T.symbols.length ≤ alpha := by
  have hsub : T.symbols ⊆ List.range alpha := fun x hx => List.mem_range.mpr (h.lt x hx)
  simpa using (List.subperm_of_subset h.nodup hsub).length_le

theorem Tree.Fits.length_le {T : Tree} (h : T.Fits alpha) {e : Symbol × List Bit} (he : e ∈ T.table) :
    e.2.length ≤ alpha := by
  have hlen := Tree.length_le_of_mem_table he
  have hcard := h.length_symbols_le
  have hpos := T.one_le_length_symbols
  omega

theorem Tree.Fits.length_codeIn_le {T : Tree} (h : T.Fits alpha) (x : Symbol) : (codeIn T.table x).length ≤ alpha := by
  by_cases hx : x ∈ T.symbols
  · exact h.length_le (Tree.codeIn_table_mem hx)
  · rw [Tree.codeIn_table_of_not_mem hx]; exact Nat.zero_le _

theorem State.HoldsTree.fits (h : s.HoldsTree) : s.tree.Fits s.params.alpha := ⟨h.nodup_symbols, fun _ => h.lt_alpha⟩

/-- What GENTAB with a tree leads to (R140). -/
def State.tabled (s : State) : State := (s.tableWritten s.codeTables).succeed

@[simp] theorem State.tabled_params (s : State) : s.tabled.params = s.params := rfl

theorem State.tabled_read (h : s.tree.Fits s.params.alpha) {x : Symbol} (hx : x < s.params.alpha) :
    s.tabled.codeLen.read x = some (codeIn s.tree.table x).length ∧
    ∀ i < s.params.alpha, s.tabled.codeBit.read (x * s.params.alpha + i) = (codeIn s.tree.table x)[i]? := by
  have hspec := foldl_setCode_spec s.tree.table (by rw [Tree.keys_table]; exact h.nodup) (fun e => h.length_le) hx
  rwa [← s.codeCalls_eq_table] at hspec ⊢

theorem State.tabled_codeLenAt (h : s.tree.Fits s.params.alpha) {x : Symbol} (hx : x < s.params.alpha) :
    s.tabled.codeLenAt x = (codeIn s.tree.table x).length := by
  rw [State.codeLenAt, (State.tabled_read h hx).1, Option.getD_some]

/-- The table holds the code of R141. -/
theorem State.tabled_codeOf (h : s.tree.Fits s.params.alpha) {x : Symbol} (hx : x < s.params.alpha) :
    s.tabled.codeOf x = codeIn s.tree.table x := by
  obtain ⟨-, hbits⟩ := State.tabled_read h hx
  have hlen := h.length_codeIn_le x
  rw [State.codeOf, State.tabled_codeLenAt h hx]
  refine List.ext_getElem (by simp) fun i hi hi' => ?_
  simp [State.codeBitAt, hbits i (by omega), hi']

theorem exec_gentab_eq (h : s.status.treeValid = true) : exec .gentab s = .next s.tabled := exec_gentab_of_tree h

/-- Settles O42: the calls of SetCode are the abstract table. -/
theorem gentabWritesTheTreesTable : Obligations.GentabWritesTheTreesTable := by
  intro s _ hvalid h
  obtain ⟨htext, hstream, hout, htree, -, hcontrol, hport⟩ := execGentab_frame (exec_gentab_eq hvalid)
  exact ⟨s.tabled, exec_gentab_eq hvalid, s.tableWritten_succeed_succeeded _, hvalid, rfl,
    fun x hx => State.tabled_read h.fits hx, htree, htext, hstream, hout, hcontrol, hport⟩

/-! ### BUILD, then GENTAB -/

theorem Forest.weighs {F : Nat → Node} {n m i : Nat} (h : Forest F n m) {c : Symbol → Nat}
    (hleaf : ∀ k < n, (F k).weight = c (F k).sym) (hi : i < m) : (subtree F i).Weighs c := by
  induction i using Nat.strong_induction_on with
  | _ i ih =>
    cases ht : (F i).tag with
    | leaf =>
      have hlt : i < n := by
        by_contra hn
        rw [(h.merge i (by omega) hi).tag] at ht
        cases ht
      rw [h.subtree_leaf hlt]
      exact hleaf i hlt
    | internal =>
      obtain ⟨hl, hr⟩ := h.child_lt hi ht
      rw [h.subtree_internal hi ht]
      refine ⟨?_, ih _ hl (by omega), ih _ hr (by omega)⟩
      rw [h.weight_subtree (by omega), h.weight_subtree (by omega)]
      exact (h.merge i (h.le_of_internal ht) hi).weight

theorem State.built_tree (hp : s.params.Bounds) (h : s.textLen ≠ 0) :
    s.built.tree = subtree s.built.nodeAt (2 * s.present.length - 2) :=
  State.tree_eq_subtree (State.built_forest hp h) (State.present_pos h) s.present_le (State.built_rootSlot hp h)

theorem State.built_tree_symbols (hp : s.params.Bounds) (h : s.textLen ≠ 0) :
    s.built.tree.symbols.Perm s.present := by
  have hroot := (State.built_forest hp h).symbols_root (State.present_pos h)
  rwa [s.built_symbols, ← State.built_tree hp h] at hroot

theorem State.mem_built_tree (hp : s.params.Bounds) (h : s.textLen ≠ 0) {x : Symbol} :
    x ∈ s.built.tree.symbols ↔ x ∈ s.textSymbols := by
  rw [(State.built_tree_symbols hp h).mem_iff, State.mem_present]

theorem State.built_fits (hp : s.params.Bounds) (h : s.textLen ≠ 0) : s.built.tree.Fits s.params.alpha where
  nodup := (State.built_tree_symbols hp h).nodup_iff.mpr s.nodup_present
  lt _ hx := State.lt_alpha_of_mem_text ((State.mem_built_tree hp h).mp hx)

theorem State.built_weighs (hp : s.params.Bounds) (h : s.textLen ≠ 0) :
    s.built.tree.Weighs fun x => s.textSymbols.count x := by
  have hpos := State.present_pos h
  rw [State.built_tree hp h]
  exact (State.built_forest hp h).weighs (fun k hk => by rw [s.built_leaf hk]; rfl) (by omega)

/-- The codes of the text after BUILD and GENTAB. -/
theorem State.built_tabled_codeOf (hp : s.params.Bounds) (h : s.textLen ≠ 0) {x : Symbol} (hx : x ∈ s.textSymbols) :
    s.built.tabled.codeOf x = codeIn s.built.tree.table x :=
  State.tabled_codeOf (s := s.built) (State.built_fits hp h) (State.lt_alpha_of_mem_text hx :)

theorem State.built_tabled_codeOf_ne_nil (hp : s.params.Bounds) (h : s.textLen ≠ 0) {x : Symbol}
    (hx : x ∈ s.textSymbols) : s.built.tabled.codeOf x ≠ [] := by
  rw [State.built_tabled_codeOf hp h hx, Tree.codeIn_table_ne_nil_iff, State.mem_built_tree hp h]
  exact hx

theorem concatCodes_congr {f g : Symbol → List Bit} {text : List Symbol} (h : ∀ x ∈ text, f x = g x) :
    concatCodes f text = concatCodes g text := by
  rw [concatCodes, concatCodes, List.flatMap_def, List.flatMap_def, List.map_congr_left h]

theorem State.built_tabled_concat (hp : s.params.Bounds) (h : s.textLen ≠ 0) :
    concatCodes s.built.tabled.codeOf s.textSymbols = concatCodes (codeIn s.built.tree.table) s.textSymbols :=
  concatCodes_congr fun _ hx => State.built_tabled_codeOf hp h hx

/-- Settles O49: each symbol of the text counts as often as BUILD counted it. -/
theorem encodedLengthIsTheWeightedSum : Obligations.EncodedLengthIsTheWeightedSum := by
  intro s hp h hfit
  have hp := Params.bounds_of_wellFormed hp
  refine ⟨s.built, s.built.tabled, exec_build_of_text h, exec_gentab_eq rfl,
    fun x hx => State.built_tabled_codeOf_ne_nil hp h hx, ?_⟩
  rw [length_concatCodes, sum_map_eq_sum_count _ List.nodup_range s.text_subset_range]
  refine congrArg List.sum (List.map_congr_left fun x hx => ?_)
  have hfreq : s.built.tabled.freqAt x = s.built.freqAt x := by
    have hx := List.mem_range.mp hx
    simp [State.freqAt, State.tabled, s.textCounts_read, hx]
  rw [hfreq, State.built_freqAt hp hfit x (List.mem_range.mp hx)]
  simp [State.codeOf]

end Sys2Proof.Machine
end

section
/-! PROOF. The tree BUILD makes is optimal (40_build.md R123, 90_conflicts.md C4): a code that is free of continuations
has lengths within Kraft's bound, and merging the two least weights loses nothing against any such lengths. -/

namespace Sys2Proof.Machine

/-! ### Kraft's bound for the codes of an assignment -/

/-- Codes none of which continues another can be cut apart in one way only. -/
theorem uniquelyDecodable_of_no_continuation {S : Set (List Bit)} (hne : ∀ p ∈ S, p ≠ [])
    (h : ∀ p ∈ S, ∀ q ∈ S, p <+: q → p = q) : InformationTheory.UniquelyDecodable S := by
  intro ps
  induction ps with
  | nil =>
    intro qs _ hqs hflat
    cases qs with
    | nil => rfl
    | cons q qs => exact absurd (List.append_eq_nil_iff.mp hflat.symm).1 (hne q (hqs q List.mem_cons_self))
  | cons p ps ih =>
    intro qs hps hqs hflat
    have hp := hps p List.mem_cons_self
    cases qs with
    | nil => exact absurd (List.append_eq_nil_iff.mp hflat).1 (hne p hp)
    | cons q qs =>
      have hq := hqs q List.mem_cons_self
      have hpre : p <+: q ++ qs.flatten := ⟨ps.flatten, hflat⟩
      have hpq : p = q := by
        rcases List.prefix_or_prefix_of_prefix hpre (List.prefix_append q qs.flatten) with hcont | hcont
        · exact h p hp q hq hcont
        · exact (h q hq p hp hcont).symm
      subst hpq
      have htail : ps.flatten = qs.flatten := List.append_cancel_left hflat
      rw [ih qs (fun r hr => hps r (List.mem_cons_of_mem _ hr)) (fun r hr => hqs r (List.mem_cons_of_mem _ hr)) htail]

/-- The sum of Kraft's inequality. -/
noncomputable def kraft (lengths : Multiset Nat) : ℝ := (lengths.map fun k => (1 / 2 : ℝ) ^ k).sum

@[simp] theorem kraft_cons (k : Nat) (lengths : Multiset Nat) :
    kraft (k ::ₘ lengths) = (1 / 2) ^ k + kraft lengths := by simp [kraft]

theorem kraft_nonneg (lengths : Multiset Nat) : 0 ≤ kraft lengths :=
  Multiset.sum_nonneg fun v hv => by
    obtain ⟨k, -, rfl⟩ := Multiset.mem_map.mp hv
    positivity

/-- Kraft's inequality for the codes of distinct symbols. -/
theorem kraft_le_one {codeOf : Symbol → List Bit} {symbols : List Symbol} (hnodup : symbols.Nodup)
    (hne : ∀ x ∈ symbols, codeOf x ≠ []) (hfree : PrefixFree codeOf symbols) :
    kraft (symbols.map fun x => (codeOf x).length : List Nat) ≤ 1 := by
  have hinj : ∀ x ∈ symbols, ∀ y ∈ symbols, codeOf x = codeOf y → x = y := fun x hx y hy heq => by
    by_contra hxy
    exact hfree x hx y hy hxy (heq ▸ List.prefix_rfl)
  have hdec : InformationTheory.UniquelyDecodable ((symbols.map codeOf).toFinset : Set (List Bit)) := by
    refine uniquelyDecodable_of_no_continuation ?_ ?_
    · intro p hp
      obtain ⟨x, hx, rfl⟩ := List.mem_map.mp (List.mem_toFinset.mp hp)
      exact hne x hx
    · intro p hp q hq hcont
      obtain ⟨x, hx, rfl⟩ := List.mem_map.mp (List.mem_toFinset.mp hp)
      obtain ⟨y, hy, rfl⟩ := List.mem_map.mp (List.mem_toFinset.mp hq)
      by_contra hxy
      exact hfree x hx y hy (fun heq => hxy (heq ▸ rfl)) hcont
  have hbound := InformationTheory.kraft_mcmillan_inequality hdec
  rw [List.sum_toFinset _ (List.Nodup.map_on (fun x hx y hy => hinj x hx y hy) hnodup), List.map_map] at hbound
  simpa [kraft, Function.comp_def] using hbound

/-! ### Merging the two least weights (R117) -/

/-- What an assignment of lengths to weights costs: each member is a weight with its length. -/
def expense (P : Multiset (Nat × Nat)) : Nat := (P.map fun e => e.1 * e.2).sum

@[simp] theorem expense_cons (e : Nat × Nat) (P : Multiset (Nat × Nat)) :
    expense (e ::ₘ P) = e.1 * e.2 + expense P := by simp [expense]

/-- The least weight may take the greatest length: exchanging the two costs no more. -/
theorem exchange_to_longest (a k : Nat) (P : Multiset (Nat × Nat)) (ha : ∀ e ∈ P, a ≤ e.1) :
    ∃ m Q, Q.map Prod.fst = P.map Prod.fst ∧ m ::ₘ Q.map Prod.snd = k ::ₘ P.map Prod.snd ∧ (∀ e ∈ Q, e.2 ≤ m) ∧
      a * m + expense Q ≤ a * k + expense P := by
  induction P using Multiset.induction_on generalizing k with
  | empty => exact ⟨k, 0, rfl, rfl, by simp, le_rfl⟩
  | cons e P ih =>
    obtain ⟨w, len⟩ := e
    obtain ⟨haw, haP⟩ := Multiset.forall_mem_cons.mp ha
    have longest_ge : ∀ {m k : Nat} {Q : Multiset (Nat × Nat)}, m ::ₘ Q.map Prod.snd = k ::ₘ P.map Prod.snd →
        (∀ e ∈ Q, e.2 ≤ m) → k ≤ m := by
      intro m k Q hsnd hmax
      have hk : k ∈ m ::ₘ Q.map Prod.snd := hsnd ▸ Multiset.mem_cons_self k _
      rcases Multiset.mem_cons.mp hk with rfl | hk
      · exact le_rfl
      · obtain ⟨e, he, rfl⟩ := Multiset.mem_map.mp hk
        exact hmax e he
    rcases Nat.lt_or_ge k len with hlt | hge
    · obtain ⟨m, Q, hfst, hsnd, hmax, hcost⟩ := ih len haP
      refine ⟨m, (w, k) ::ₘ Q, by simp [hfst], ?_, ?_, ?_⟩
      · rw [Multiset.map_cons, Multiset.cons_swap, hsnd, Multiset.map_cons]
      · exact Multiset.forall_mem_cons.mpr ⟨hlt.le.trans (longest_ge hsnd hmax), hmax⟩
      · have hswap : a * len + w * k ≤ a * k + w * len := by
          obtain ⟨d, rfl⟩ := Nat.exists_eq_add_of_lt hlt
          obtain ⟨c, rfl⟩ := Nat.exists_eq_add_of_le haw
          nlinarith
        simp only [expense_cons]
        omega
    · obtain ⟨m, Q, hfst, hsnd, hmax, hcost⟩ := ih k haP
      refine ⟨m, (w, len) ::ₘ Q, by simp [hfst], ?_, ?_, ?_⟩
      · rw [Multiset.map_cons, Multiset.cons_swap, hsnd, Multiset.map_cons, Multiset.cons_swap]
      · exact Multiset.forall_mem_cons.mpr ⟨hge.trans (longest_ge hsnd hmax), hmax⟩
      · simp only [expense_cons]
        omega

/-- Over lengths of at most `m` the sum is a multiple of `2 ^ -m`. -/
theorem exists_kraft_eq_div (m : Nat) (lengths : Multiset Nat) (h : ∀ k ∈ lengths, k ≤ m) :
    ∃ c : Nat, kraft lengths = c / 2 ^ m := by
  induction lengths using Multiset.induction_on with
  | empty => exact ⟨0, by simp [kraft]⟩
  | cons k lengths ih =>
    obtain ⟨hk, hlengths⟩ := Multiset.forall_mem_cons.mp h
    obtain ⟨c, hc⟩ := ih hlengths
    refine ⟨2 ^ (m - k) + c, ?_⟩
    have hpow : (1 / 2 : ℝ) ^ k = 2 ^ (m - k) / 2 ^ m := by
      rw [one_div, inv_pow, eq_div_iff (by positivity), ← div_eq_inv_mul, div_eq_iff (by positivity), ← pow_add,
        Nat.sub_add_cancel hk]
    rw [kraft_cons, hc, hpow]
    push_cast
    ring

/-- Room for a longer word beside lengths of at most `m` is room for one of length `m`. -/
theorem kraft_shorten {k m : Nat} {lengths : Multiset Nat} (h : ∀ l ∈ lengths, l ≤ m)
    (hk : kraft (k ::ₘ lengths) ≤ 1) : kraft (m ::ₘ lengths) ≤ 1 := by
  obtain ⟨c, hc⟩ := exists_kraft_eq_div m lengths h
  rw [kraft_cons, hc] at hk ⊢
  have hpos : (0 : ℝ) < (1 / 2) ^ k := by positivity
  have hlt : (c : ℝ) / 2 ^ m < 1 := by linarith
  rw [div_lt_one (by positivity)] at hlt
  have hc1 : c + 1 ≤ 2 ^ m := by exact_mod_cast hlt
  have hc1 : (c : ℝ) + 1 ≤ 2 ^ m := by exact_mod_cast hc1
  rw [one_div, inv_pow, inv_eq_one_div, ← add_div, div_le_one (by positivity)]
  linarith

/-- Two words of length `m` leave the room of one that is a bit shorter. -/
theorem kraft_join {m : Nat} {lengths : Multiset Nat} (h : kraft (m ::ₘ m ::ₘ lengths) ≤ 1) :
    ∃ m', m = m' + 1 ∧ kraft (m' ::ₘ lengths) ≤ 1 := by
  cases m with
  | zero =>
    have := kraft_nonneg lengths
    simp only [kraft_cons, pow_zero] at h
    linarith
  | succ m =>
    refine ⟨m, rfl, ?_⟩
    simp only [kraft_cons, pow_succ] at h ⊢
    linarith

/-- Any lengths for the weights give lengths for the weights with the two least merged, which cost less by what the
merge weighs. -/
theorem exists_merged_assignment {a b : Nat} {W : Multiset Nat} {P : Multiset (Nat × Nat)}
    (hP : P.map Prod.fst = a ::ₘ b ::ₘ W) (hab : a ≤ b) (hb : ∀ w ∈ W, b ≤ w) (hkraft : kraft (P.map Prod.snd) ≤ 1) :
    ∃ Q : Multiset (Nat × Nat), Q.map Prod.fst = (a + b) ::ₘ W ∧ kraft (Q.map Prod.snd) ≤ 1 ∧
      expense Q + (a + b) ≤ expense P := by
  obtain ⟨⟨a', k⟩, ha, rfl, hrest⟩ := (Multiset.map_eq_cons _ _ _ _).mpr hP
  obtain ⟨P, rfl⟩ := Multiset.exists_cons_of_mem ha
  rw [Multiset.erase_cons_head] at hrest
  have haP : ∀ e ∈ P, a' ≤ e.1 := by
    intro e he
    have hmem : e.1 ∈ b ::ₘ W := hrest ▸ Multiset.mem_map_of_mem Prod.fst he
    rcases Multiset.mem_cons.mp hmem with heq | hmem
    · exact heq ▸ hab
    · exact hab.trans (hb _ hmem)
  obtain ⟨m₁, Q₁, hfst₁, hsnd₁, hmax₁, hcost₁⟩ := exchange_to_longest a' k P haP
  obtain ⟨⟨b', k'⟩, hb', rfl, hQ₁⟩ := (Multiset.map_eq_cons _ _ _ _).mpr (hfst₁.trans hrest)
  obtain ⟨R, rfl⟩ := Multiset.exists_cons_of_mem hb'
  rw [Multiset.erase_cons_head] at hQ₁
  have hbR : ∀ e ∈ R, b' ≤ e.1 := fun e he => hb _ (hQ₁ ▸ Multiset.mem_map_of_mem Prod.fst he)
  obtain ⟨m₂, Q₂, hfst₂, hsnd₂, hmax₂, hcost₂⟩ := exchange_to_longest b' k' R hbR
  have hm : m₂ ≤ m₁ := by
    have hmem : m₂ ∈ k' ::ₘ R.map Prod.snd := hsnd₂ ▸ Multiset.mem_cons_self m₂ _
    have hmem : m₂ ∈ ((b', k') ::ₘ R).map Prod.snd := by rwa [Multiset.map_cons]
    obtain ⟨e, he, rfl⟩ := Multiset.mem_map.mp hmem
    exact hmax₁ e he
  have hroom : kraft (m₁ ::ₘ m₂ ::ₘ Q₂.map Prod.snd) ≤ 1 := by
    rw [hsnd₂]
    rw [Multiset.map_cons] at hsnd₁ hkraft
    rw [hsnd₁]
    exact hkraft
  have hle : ∀ l ∈ m₂ ::ₘ Q₂.map Prod.snd, l ≤ m₂ := by
    refine Multiset.forall_mem_cons.mpr ⟨le_rfl, fun l hl => ?_⟩
    obtain ⟨e, he, rfl⟩ := Multiset.mem_map.mp hl
    exact hmax₂ e he
  obtain ⟨m, rfl, hjoined⟩ := kraft_join (kraft_shorten hle hroom)
  refine ⟨(a' + b', m) ::ₘ Q₂, by simp [hfst₂, hQ₁], by simpa using hjoined, ?_⟩
  have hshort : a' * (m + 1) ≤ a' * m₁ := Nat.mul_le_mul_left a' hm
  simp only [expense_cons] at hcost₁ hcost₂ ⊢
  have hsplit : (a' + b') * m + (a' + b') = a' * (m + 1) + b' * (m + 1) := by ring
  omega

/-! ### The merges of a forest -/

variable {F : Nat → Node} {n m i j : Nat}

theorem weight_le_of_before {e f : Entry} (h : before e f = true) : e.node.weight ≤ f.node.weight := by
  rcases before_iff.mp h with hlt | ⟨heq, -⟩
  · exact hlt.le
  · exact heq.le

/-- If every merge takes the two least, no lengths within Kraft's bound for the weights at hand cost less than the
merges still to come; told from the Leaves on, with what has been merged so far. -/
theorem Forest.exists_assignment (h : Forest F n m) (hleast : ∀ i, n ≤ i → i < m → MergesLeast F i)
    {P : Multiset (Nat × Nat)} (hP : P.map Prod.fst = ((List.range n).map fun k => (F k).weight : List Nat))
    (hkraft : kraft (P.map Prod.snd) ≤ 1) (hn : n ≤ i) (hm : i ≤ m) :
    ∃ Q : Multiset (Nat × Nat), Q.map Prod.fst = ((aliveIn F i).map fun j => (F j).weight : List Nat) ∧
      kraft (Q.map Prod.snd) ≤ 1 ∧
      expense Q + ((aliveIn F i).map fun j => (subtree F j).cost).sum ≤ expense P := by
  induction i, hn using Nat.le_induction with
  | base =>
    refine ⟨P, by rw [hP, h.aliveIn_leaves], hkraft, ?_⟩
    have hzero : ((List.range n).map fun j => (subtree F j).cost) = (List.range n).map fun _ => 0 :=
      List.map_congr_left fun k hk => by rw [h.subtree_leaf (List.mem_range.mp hk), Tree.cost]
    rw [h.aliveIn_leaves, hzero]
    simp
  | succ i hn ih =>
    obtain ⟨Q, hfst, hQ, hcost⟩ := ih (by omega)
    have hmerge := h.merge i hn hm
    obtain ⟨hleft, hright⟩ := hleast i hn hm
    have hchildren := h.aliveIn_perm_children hn hm
    have hsucc := h.aliveIn_succ hn hm
    rw [Multiset.coe_eq_coe.mpr (hchildren.map fun j => (F j).weight)] at hfst
    obtain ⟨Q', hfst', hQ', hcost'⟩ := exists_merged_assignment hfst
      (weight_le_of_before (hleft _ hmerge.right hmerge.ne.symm)) (by
        intro w hw
        obtain ⟨j, hj, rfl⟩ := List.mem_map.mp (Multiset.mem_coe.mp hw)
        obtain ⟨hjr, hj⟩ := ((nodup_aliveIn F i).erase _).mem_erase_iff.mp hj
        obtain ⟨hjl, hj⟩ := (nodup_aliveIn F i).mem_erase_iff.mp hj
        exact weight_le_of_before (hright j hj hjl hjr)) hQ
    have hcost' : expense Q' + ((F (F i).left).weight + (F (F i).right).weight) ≤ expense Q := hcost'
    refine ⟨Q', ?_, hQ', ?_⟩
    · rw [Multiset.coe_eq_coe.mpr (hsucc.map fun j => (F j).weight), hfst', List.map_cons, hmerge.weight]
      rfl
    · rw [(hchildren.map fun j => (subtree F j).cost).sum_eq] at hcost
      rw [(hsucc.map fun j => (subtree F j).cost).sum_eq]
      simp only [List.map_cons, List.sum_cons] at hcost ⊢
      rw [h.subtree_merge hn hm, Tree.cost, hmerge.weight]
      omega

variable {s : State}

/-- No code free of continuations costs less than the merges. -/
theorem State.built_cost_le (hp : s.params.Bounds) (h : s.textLen ≠ 0) (hlegacy : ¬ s.legacyNow)
    {other : Symbol → List Bit} (hne : ∀ x ∈ s.textSymbols, other x ≠ []) (hfree : PrefixFree other s.textSymbols) :
    s.built.tree.cost ≤ (concatCodes other s.textSymbols).length := by
  have hforest := State.built_forest hp h
  have hpos := State.present_pos h
  have hpairs : ((List.range s.present.length).map fun k =>
      ((s.built.nodeAt k).weight, (other (s.built.nodeAt k).sym).length)) =
      s.present.map fun x => (s.textSymbols.count x, (other x).length) :=
    s.map_range_present _ _ fun k hk => by rw [s.built_leaf hk]; rfl
  have hweights : ((List.range s.present.length).map fun k => (s.built.nodeAt k).weight) =
      s.present.map fun x => s.textSymbols.count x :=
    s.map_range_present _ _ fun k hk => by rw [s.built_leaf hk]; rfl
  have hkraft := kraft_le_one s.nodup_present (fun x hx => hne x (State.mem_present.mp hx))
    fun x hx y hy => hfree x (State.mem_present.mp hx) y (State.mem_present.mp hy)
  obtain ⟨Q, -, -, hcost⟩ := hforest.exists_assignment
    (P := (s.present.map fun x => (s.textSymbols.count x, (other x).length) : List (Nat × Nat)))
    (fun i hi hlt => State.built_mergesLeast hp h hi hlt fun _ => hlegacy)
    (by rw [hweights]; simp [Function.comp_def]) (by simpa [Function.comp_def] using hkraft) hforest.le le_rfl
  have hexpense : (concatCodes other s.textSymbols).length =
      expense (s.present.map fun x => (s.textSymbols.count x, (other x).length) : List (Nat × Nat)) := by
    rw [length_concatCodes, sum_map_eq_sum_count _ s.nodup_present fun x hx => State.mem_present.mpr hx, expense]
    simp [Function.comp_def]
  rw [hforest.aliveIn_root hpos, ← hexpense] at hcost
  rw [State.built_tree hp h]
  simp only [List.map_cons, List.map_nil, List.sum_cons, List.sum_nil] at hcost
  omega

/-- Settles O40: the generated codes cost the merges, and a tree that is one Leaf costs one bit a symbol. -/
theorem buildTreeIsOptimal : Obligations.BuildTreeIsOptimal := by
  intro s hp h hlegacy
  have hp := Params.bounds_of_wellFormed hp
  refine ⟨s.built, s.built.tabled, exec_build_of_text h, exec_gentab_eq rfl, fun other hne hfree => ?_⟩
  rw [State.built_tabled_concat hp h]
  have hweighs := State.built_weighs hp h
  have hcost := State.built_cost_le hp h hlegacy hne hfree
  have hsum := Tree.sum_code_lengths (State.built_fits hp h).nodup fun x hx => (State.mem_built_tree hp h).mpr hx
  cases htree : s.built.tree with
  | leaf w x =>
    rw [length_concatCodes, length_concatCodes]
    refine List.sum_le_sum fun y hy => ?_
    have hone := (Tree.leaf w x).length_codeIn_table_le y
    have hpos := List.length_pos_iff.mpr (hne y hy)
    simp only [Tree.symbols, List.length_singleton] at hone
    omega
  | internal w l r =>
    rw [htree] at hweighs hcost hsum
    rw [hsum]
    exact hweighs.sum_codes.trans_le hcost

end Sys2Proof.Machine
end

section
/-! PROOF. DECODE on a tree with branches (43_decode.md R160 to R169): the loop on the NODE table is the walk on the
abstract tree. -/

namespace Sys2Proof.Machine

variable {F : Nat → Node} {n m cap : Nat} {s : State}

/-! ### One bit -/

namespace Forest

variable (h : Forest F n m) {cur : Nat} (hcur : cur < m) (ht : (F cur).tag = .internal)
include h hcur ht

theorem child_lt_cur (b : Bit) : (F cur).child b < cur := by
  obtain ⟨hl, hr⟩ := h.child_lt hcur ht
  cases b
  · exact hl
  · exact hr

/-- The walk on the abstract tree follows the table's child. -/
theorem decodeFrom_cons (root : Tree) (inCode bits : List Bit) (b : Bit) :
    root.decodeFrom (subtree F cur) inCode (b :: bits) =
      match (F ((F cur).child b)).tag with
      | .leaf => ((F ((F cur).child b)).sym :: (root.decodeFrom root [] bits).1, (root.decodeFrom root [] bits).2)
      | .internal => root.decodeFrom (subtree F ((F cur).child b)) (inCode ++ [b]) bits := by
  have hchild := h.child_lt_cur hcur ht b
  have hbranch : branch (subtree F (F cur).left) (subtree F (F cur).right) b = subtree F ((F cur).child b) := by
    cases b <;> rfl
  rw [h.subtree_internal hcur ht, Tree.decodeFrom_internal_cons, hbranch]
  cases htag : (F ((F cur).child b)).tag with
  | leaf => rw [subtree, treeOf_of_leaf _ htag]
  | internal => rw [h.subtree_internal (hchild.trans hcur) htag]

end Forest

/-! ### The loop -/

/-- Where the walk stands: the bits since the root, where they began, and that only the root has none. -/
structure AtSlot (root cur start k : Nat) (inCode : List Bit) : Prop where
  start : start + inCode.length = k
  atRoot : cur = root ↔ inCode = []

theorem AtSlot.root (root k : Nat) : AtSlot root root k k [] := ⟨rfl, iff_of_true rfl rfl⟩

/-- Going to a child of `cur`, which is never the root. -/
theorem AtSlot.child {root cur start k c : Nat} {inCode : List Bit} (h : AtSlot root cur start k inCode) (b : Bit)
    (hne : c ≠ root) : AtSlot root c start (k + 1) (inCode ++ [b]) where
  start := by rw [List.length_append, List.length_singleton, ← h.start]; omega
  atRoot := iff_of_false hne (by simp)

/-- What the loop answers when the walk ends with its symbols `xs` emitted and `rest` begun. -/
def walkAnswer (len : Nat) (walked : List Symbol × List Bit) : Except (CmdError × Nat) (List Symbol) :=
  if walked.2 = [] then .ok walked.1 else .error (.malformedStream, len - walked.2.length)

/-- As long as OUT has room, the loop is the walk on the abstract tree (R162 to R164). -/
theorem Forest.decodeLoop_eq (h : Forest F n m) {root : Nat} (hroot : root < m) (hint : (F root).tag = .internal)
    {k cur start count : Nat} {inCode bits : List Bit} (hcur : cur ≤ root) (ht : (F cur).tag = .internal)
    (hat : AtSlot root cur start k inCode)
    (hfit : count + ((subtree F root).decodeFrom (subtree F cur) inCode bits).1.length ≤ cap) :
    decodeLoop F root cap k cur start count bits =
      walkAnswer (k + bits.length) ((subtree F root).decodeFrom (subtree F cur) inCode bits) := by
  induction bits generalizing k cur start count inCode with
  | nil =>
    have hstart : start = k + 0 - inCode.length := by have := hat.start; omega
    simp [decodeLoop, walkAnswer, Tree.decodeFrom, hat.atRoot, hstart]
  | cons b bits ih =>
    have hchild := h.child_lt_cur (by omega) ht b
    have hlen : k + (b :: bits).length = k + 1 + bits.length := by rw [List.length_cons]; omega
    rw [h.decodeFrom_cons (by omega) ht] at hfit ⊢
    rw [decodeLoop, hlen]
    cases htag : (F ((F cur).child b)).tag with
    | leaf =>
      simp only [htag, List.length_cons] at hfit
      have hroom : ¬ count = cap := by omega
      simp only [if_neg hroom]
      rw [ih (inCode := []) le_rfl hint (.root root (k + 1)) (by omega)]
      by_cases hrest : ((subtree F root).decodeFrom (subtree F root) [] bits).2 = []
      · simp [walkAnswer, hrest]
      · simp [walkAnswer, hrest]
    | internal =>
      simp only [htag] at hfit
      exact ih (by omega) htag (hat.child b (by omega)) hfit

/-- The bit that completes one symbol more than OUT holds stops the loop, whatever follows (R166). -/
theorem Forest.decodeLoop_overflow (h : Forest F n m) {root : Nat} (hroot : root < m)
    (hint : (F root).tag = .internal) {k cur start count : Nat} {inCode pre post : List Bit} {b : Bit} (hcur : cur ≤ root)
    (ht : (F cur).tag = .internal) (hat : AtSlot root cur start k inCode)
    (hfull : count + ((subtree F root).decodeFrom (subtree F cur) inCode pre).1.length = cap)
    (hover : count + ((subtree F root).decodeFrom (subtree F cur) inCode (pre ++ [b])).1.length = cap + 1) :
    decodeLoop F root cap k cur start count (pre ++ b :: post) = .error (.outputOverflow, k + pre.length) := by
  induction pre generalizing k cur start count inCode with
  | nil =>
    rw [List.nil_append, h.decodeFrom_cons (by omega) ht] at hover
    have hcount : count = cap := by simpa [Tree.decodeFrom] using hfull
    rw [List.nil_append, decodeLoop]
    cases htag : (F ((F cur).child b)).tag with
    | leaf => simp [hcount]
    | internal => simp [htag, Tree.decodeFrom, hcount] at hover
  | cons a pre ih =>
    have hchild := h.child_lt_cur (by omega) ht a
    have hlen : k + (a :: pre).length = k + 1 + pre.length := by rw [List.length_cons]; omega
    rw [h.decodeFrom_cons (by omega) ht] at hfull
    rw [List.cons_append, h.decodeFrom_cons (by omega) ht] at hover
    rw [List.cons_append, decodeLoop, hlen]
    cases htag : (F ((F cur).child a)).tag with
    | leaf =>
      simp only [htag, List.length_cons] at hfull hover
      have hroom : ¬ count = cap := by omega
      simp only [if_neg hroom]
      rw [ih (inCode := []) le_rfl hint (.root root (k + 1)) (by omega) (by omega)]
    | internal =>
      simp only [htag] at hfull hover
      exact ih (by omega) htag (hat.child a (by omega)) hfull hover

/-! ### DECODE in a state that holds a tree -/

namespace State.HoldsTree

variable (h : s.HoldsTree)
include h

theorem decodeBits_eq (bits : List Bit) : s.tree.decodeBits bits =
    (subtree s.nodeAt s.rootSlot).decodeFrom (subtree s.nodeAt s.rootSlot) [] bits := by
  rw [Tree.decodeBits, h.tree_eq, h.rootSlot_eq]

variable (hn : 2 ≤ s.nleaf.toNat)
include hn

theorem root_internal : (s.nodeAt s.rootSlot).tag = .internal := by
  rw [h.rootSlot_eq]
  exact (h.forest.merge _ (by omega) (by omega)).tag

theorem decoding_eq : s.decoding =
    decodeLoop s.nodeAt s.rootSlot s.params.maxText 0 s.rootSlot 0 0 s.streamBits := by
  simp [State.decoding, h.root_internal hn]

theorem rootSlot_lt : s.rootSlot < 2 * s.nleaf.toNat - 1 := by rw [h.rootSlot_eq]; omega

/-- With room in OUT, DECODE answers what the walk says (R162 to R164). -/
theorem decoding_of_fits (hfit : (s.tree.decodeBits s.streamBits).1.length ≤ s.params.maxText) :
    s.decoding = walkAnswer s.streamLen.toNat (s.tree.decodeBits s.streamBits) := by
  rw [h.decodeBits_eq] at hfit ⊢
  rw [h.decoding_eq hn, h.forest.decodeLoop_eq (h.rootSlot_lt hn) (h.root_internal hn) (inCode := []) le_rfl
    (h.root_internal hn) (.root _ 0) (by omega), s.length_streamBits, Nat.zero_add]

theorem decoding_of_overflow {pre post : List Bit} {b : Bit} (hstream : s.streamBits = pre ++ b :: post)
    (hfull : (s.tree.decodeBits pre).1.length = s.params.maxText)
    (hover : (s.tree.decodeBits (pre ++ [b])).1.length = s.params.maxText + 1) :
    s.decoding = .error (.outputOverflow, pre.length) := by
  rw [h.decodeBits_eq] at hfull hover
  rw [h.decoding_eq hn, hstream, h.forest.decodeLoop_overflow (h.rootSlot_lt hn) (h.root_internal hn) (inCode := [])
    le_rfl (h.root_internal hn) (.root _ 0) (by omega) (by omega), Nat.zero_add]

end State.HoldsTree

/-- Settles O52: a walk that ends at the root is DECODE's success. -/
theorem decodeWalksTheTree : Obligations.DecodeWalksTheTree := by
  intro s xs hp hvalid h hn hwalk hfit
  have hloop := h.decoding_of_fits hn (by rwa [hwalk])
  rw [hwalk, walkAnswer, if_pos rfl] at hloop
  obtain ⟨t, hx, hsucc, hlen, hkeeps⟩ := decode_succeeds hvalid hloop
  refine ⟨t, hx, hsucc, ?_, hkeeps⟩
  have hmax := (Params.bounds_of_wellFormed hp).maxText_lt
  rw [hlen, BitVec.toNat_ofNat]
  exact Nat.mod_eq_of_lt (hfit.trans_lt hmax)

/-- Settles O53: a walk that ends elsewhere is MalformedStream, at the first bit since the root. -/
theorem decodeReportsMalformedStream : Obligations.DecodeReportsMalformedStream := by
  intro s xs rest _ hvalid h hn hwalk hrest hfit
  have hloop := h.decoding_of_fits hn (by rwa [hwalk])
  rw [hwalk, walkAnswer, if_neg hrest] at hloop
  exact decode_fails hvalid hloop

/-- Settles O54: the loop stops at the symbol OUT has no room for. -/
theorem decodeReportsOutputOverflow : Obligations.DecodeReportsOutputOverflow :=
  fun _ _ _ _ _ hvalid h hn hstream hfull hover => decode_fails hvalid (h.decoding_of_overflow hn hstream hfull hover)

end Sys2Proof.Machine
end

section
/-! PROOF. Only elements with a value matter: a state with the same tree and table has the same tree and codes, whatever
its free values (log 3). -/

namespace Sys2Proof.Machine

variable {s t : State} {α : Type}

/-! ### Elements with a value -/

theorem Memory.isSome_of_keys {m : Memory α} {n i : Nat} (h : m.map Prod.fst = List.range n) (hi : i < n) :
    (Memory.read m i).isSome = true := by
  rw [← Option.ne_none_iff_isSome, ne_eq, Memory.read_eq_none_iff, h, List.mem_range, not_not]
  exact hi

/-- Whatever would be read in place of a missing value. -/
theorem getD_eq_of_isSome {o : Option α} (h : o.isSome = true) (a b : α) : o.getD a = o.getD b := by
  obtain ⟨v, rfl⟩ := Option.isSome_iff_exists.mp h
  rfl

theorem State.textSymbols_eq (hparams : t.params = s.params) (hkeep : KeepsText s t)
    (hwritten : ∀ i < s.textLen.toNat, (s.text.read i).isSome = true) : t.textSymbols = s.textSymbols := by
  obtain ⟨hlen, htext⟩ := hkeep
  rw [State.textSymbols, State.textSymbols, hlen]
  refine List.map_congr_left fun i hi => ?_
  rw [State.textAt, State.textAt, htext, hparams, getD_eq_of_isSome (hwritten i (List.mem_range.mp hi))]

theorem State.streamBits_eq (hkeep : KeepsStream s t)
    (hwritten : ∀ k < s.streamLen.toNat, (s.stream.read k).isSome = true) : t.streamBits = s.streamBits := by
  obtain ⟨hlen, hstream⟩ := hkeep
  rw [State.streamBits, State.streamBits, hlen]
  refine List.map_congr_left fun k hk => ?_
  rw [State.streamAt, State.streamAt, hstream, getD_eq_of_isSome (hwritten k (List.mem_range.mp hk))]

/-! ### The same tree -/

/-- `t` holds the tree of `s`, memory by memory. -/
structure SameTree (s t : State) : Prop where
  params : t.params = s.params
  root : t.root = s.root
  nodeCnt : t.nodeCnt = s.nodeCnt
  nleaf : t.nleaf = s.nleaf
  freq : t.freq = s.freq
  node : t.node = s.node

theorem SameTree.rootSlot (h : SameTree s t) : t.rootSlot = s.rootSlot := by
  rw [State.rootSlot, State.rootSlot, h.root, h.params]

/-- The abstract tree depends on the slots of the forest alone. -/
theorem Forest.treeOf_congr {F G : Nat → Node} {n m : Nat} (h : Forest F n m) (hG : ∀ i < m, G i = F i) (d : Nat)
    {i : Nat} (hi : i < m) : treeOf G d i = treeOf F d i := by
  induction d generalizing i with
  | zero => rw [treeOf, treeOf, hG i hi]
  | succ d ih =>
    have htag := congrArg Node.tag (hG i hi)
    cases ht : (F i).tag with
    | leaf => rw [treeOf_of_leaf _ ht, treeOf_of_leaf _ (htag.trans ht), hG i hi]
    | internal =>
      obtain ⟨hl, hr⟩ := h.child_lt hi ht
      rw [treeOf_succ_of_internal d ht, treeOf_succ_of_internal d (htag.trans ht), hG i hi, ih (hl.trans hi),
        ih (hr.trans hi)]

namespace State.HoldsTree

variable (hs : s.HoldsTree) (h : SameTree s t)
include hs h

theorem nodeAt_eq {i : Nat} (hi : i < 2 * s.nleaf.toNat - 1) : t.nodeAt i = s.nodeAt i := by
  rw [State.nodeAt, State.nodeAt, h.node, getD_eq_of_isSome (Memory.isSome_of_keys hs.slots hi)]

theorem freqAt_eq {x : Symbol} (hx : x < s.params.alpha) : t.freqAt x = s.freqAt x := by
  rw [State.freqAt, State.freqAt, h.freq, h.params, getD_eq_of_isSome (Memory.isSome_of_keys hs.counts hx)]

theorem tree_congr : t.tree = s.tree := by
  have hpos := hs.one_le
  rw [State.tree, State.tree, h.rootSlot, h.params]
  exact hs.forest.treeOf_congr (fun i => hs.nodeAt_eq h) _ (by rw [hs.rootSlot_eq]; omega)

theorem parentsOf_congr (j : Nat) : t.parentsOf j = s.parentsOf j := by
  rw [State.parentsOf, State.parentsOf, h.nodeCnt]
  refine List.filter_congr fun i hi => ?_
  rw [hs.nodeAt_eq h (by rw [← hs.nodeCnt]; exact List.mem_range.mp hi)]

theorem freqTotal_congr : t.freqTotal = s.freqTotal := by
  rw [State.freqTotal, State.freqTotal, h.params]
  exact congrArg List.sum (List.map_congr_left fun x hx => hs.freqAt_eq h (List.mem_range.mp hx))

theorem of_sameTree : t.HoldsTree := by
  have hroot := hs.rootSlot_eq
  have hpos := hs.one_le
  constructor
  case leaves => rw [h.nleaf, h.params]; exact hs.leaves
  case nodeCnt => rw [h.nodeCnt, h.nleaf]; exact hs.nodeCnt
  case slots => rw [h.node, h.nleaf]; exact hs.slots
  case counts => rw [h.freq, h.params]; exact hs.counts
  case leaf =>
    intro k hk
    rw [h.nleaf] at hk
    obtain ⟨htag, hweight, hl, hr⟩ := hs.leaf k hk
    have hsym : (s.nodeAt k).sym < s.params.alpha := by
      have hmem := List.mem_map_of_mem (f := fun k => (s.nodeAt k).sym) (List.mem_range.mpr hk)
      rw [hs.symbols, List.mem_filter] at hmem
      exact List.mem_range.mp hmem.1
    rw [hs.nodeAt_eq h (by omega), hs.freqAt_eq h hsym]
    exact ⟨htag, hweight, hl, hr⟩
  case symbols =>
    rw [h.nleaf, h.params]
    have hleaves : ((List.range s.nleaf.toNat).map fun k => (t.nodeAt k).sym) =
        (List.range s.nleaf.toNat).map fun k => (s.nodeAt k).sym :=
      List.map_congr_left fun k hk => by
        have hk := List.mem_range.mp hk
        rw [hs.nodeAt_eq h (by omega)]
    rw [hleaves, hs.symbols]
    exact List.filter_congr fun x hx => by rw [hs.freqAt_eq h (List.mem_range.mp hx)]
  case internal =>
    intro i hlt hi
    rw [h.nleaf] at hlt hi
    obtain ⟨htag, hsym, hl, hr, hne, hweight⟩ := hs.internal i hlt hi
    rw [hs.nodeAt_eq h hlt, hs.nodeAt_eq h (hl.trans hlt), hs.nodeAt_eq h (hr.trans hlt)]
    exact ⟨htag, hsym, hl, hr, hne, hweight⟩
  case oneParent =>
    intro j hj hne
    rw [hs.parentsOf_congr h]
    exact hs.oneParent j (by rwa [← h.nleaf]) (by rwa [← h.rootSlot])
  case rootFree => rw [hs.parentsOf_congr h, h.rootSlot]; exact hs.rootFree
  case root => rw [h.root, h.nleaf]; exact hs.root
  case rootWeight =>
    rw [h.rootSlot, hs.nodeAt_eq h (by rw [hroot]; omega), hs.freqTotal_congr h]
    exact hs.rootWeight
  case total => rw [hs.freqTotal_congr h, h.params]; exact hs.total

end State.HoldsTree

/-! ### The same table -/

namespace State.HoldsTable

variable (hs : s.HoldsTable) (hparams : t.params = s.params) (hlen : t.codeLen = s.codeLen)
  (hbit : t.codeBit = s.codeBit)
include hs hparams hlen

omit hparams in
theorem codeLenAt_eq {x : Symbol} (hx : x < s.params.alpha) : t.codeLenAt x = s.codeLenAt x := by
  rw [State.codeLenAt, State.codeLenAt, hlen, getD_eq_of_isSome (Memory.isSome_of_keys hs.lengths hx)]

include hbit

theorem codeOf_eq {x : Symbol} (hx : x < s.params.alpha) : t.codeOf x = s.codeOf x := by
  rw [State.codeOf, State.codeOf, hs.codeLenAt_eq hlen hx, hparams]
  refine List.map_congr_left fun i hi => ?_
  have hi := List.mem_range.mp hi
  have hmax := hs.longest x hx
  have hpos := s.params.alpha_pos
  rw [Params.maxLen] at hmax
  have hsome : (s.codeBit.read (x * s.params.alpha + i)).isSome = true := by
    rw [hs.bits x hx i (by omega)]
    exact decide_eq_true hi
  rw [State.codeBitAt, State.codeBitAt, hbit, getD_eq_of_isSome hsome]

theorem of_sameTable (htree : t.tree = s.tree) : t.HoldsTable := by
  constructor
  case lengths => rw [hlen, hparams]; exact hs.lengths
  case bits =>
    rw [hparams]
    intro x hx i hi
    rw [hbit, hs.codeLenAt_eq hlen hx]
    exact hs.bits x hx i hi
  case codes =>
    rw [hparams]
    intro x hx
    rw [hs.codeOf_eq hparams hlen hbit hx, htree]
    exact hs.codes x hx
  case longest =>
    rw [hparams]
    intro x hx
    rw [hs.codeLenAt_eq hlen hx]
    exact hs.longest x hx

end State.HoldsTable

end Sys2Proof.Machine
end

section
/-! PROOF. The round trip (43_decode.md R168). -/

namespace Sys2Proof.Machine

variable {s t u : State}

theorem KeepsText.trans (h : KeepsText s t) (h' : KeepsText t u) : KeepsText s u :=
  ⟨h'.1.trans h.1, fun i => (h'.2 i).trans (h.2 i)⟩

theorem KeepsControl.trans (h : KeepsControl s t) (h' : KeepsControl t u) : KeepsControl s u :=
  ⟨h'.1.trans h.1, h'.2.1.trans h.2.1, h'.2.2.trans h.2.2⟩

/-- The stream ENCODE wrote, read back. -/
theorem State.streamBits_streamWritten (s : State) {bits : List Bit} (h : bits.length < 2 ^ 32) :
    (s.streamWritten bits).succeed.streamBits = bits := by
  have hlen : (s.streamWritten bits).succeed.streamLen.toNat = bits.length := by
    simpa using Nat.mod_eq_of_lt h
  refine List.ext_getElem (by simpa using hlen) fun k _ hk => ?_
  simp [State.streamBits, State.streamAt, Memory.read_writeAll_zero, hk]

/-- ENCODE leaves the tree. -/
theorem State.sameTree_streamWritten (s : State) (bits : List Bit) : SameTree s (s.streamWritten bits).succeed :=
  ⟨rfl, rfl, rfl, rfl, rfl, rfl⟩

/-- What DECODE computes from the codes of a text over the tree's symbols is the text. -/
theorem State.HoldsTree.decoding_of_codes (h : s.HoldsTree) {text : List Symbol}
    (hsub : ∀ x ∈ text, x ∈ s.tree.symbols) (hfit : text.length ≤ s.params.maxText)
    (hbits : s.streamBits = concatCodes (codeIn s.tree.table) text) : s.decoding = .ok text := by
  by_cases hn : 2 ≤ s.nleaf.toNat
  · obtain ⟨w, l, r, htree⟩ := h.tree_internal hn
    have hwalk : s.tree.decodeBits s.streamBits = (text, []) := by
      rw [hbits, htree]
      exact codesDecodeBack w l r text (htree ▸ h.nodup_symbols) (htree ▸ hsub)
    have hloop := h.decoding_of_fits hn (by rwa [hwalk])
    rwa [hwalk, walkAnswer, if_pos rfl] at hloop
  · have hone : s.nleaf.toNat = 1 := by have := h.one_le; omega
    have hroot : s.rootSlot = 0 := by rw [h.rootSlot_eq, hone]
    have hleaf : (s.nodeAt s.rootSlot).tag = .leaf := by rw [hroot]; exact (h.leaf 0 (by omega)).1
    have htree : s.tree = .leaf (s.nodeAt s.rootSlot).weight (s.nodeAt s.rootSlot).sym := treeOf_of_leaf _ hleaf
    have hsame : ∀ x ∈ text, x = (s.nodeAt s.rootSlot).sym := fun x hx => by
      simpa [htree, Tree.symbols] using hsub x hx
    have hlen : s.streamBits.length = text.length := by
      have hcode : ∀ x ∈ text, (codeIn s.tree.table x).length = 1 := by
        intro x hx
        rw [hsame x hx, htree]
        simp [codeIn, Tree.table]
      rw [hbits, length_concatCodes, List.map_congr_left hcode]
      simp
    rw [State.decoding_of_leaf hleaf, decodeDegenerate_of_fits _ _ (by rw [hlen]; simpa using hfit), hlen]
    exact congrArg Except.ok (List.eq_replicate_iff.mpr ⟨rfl, hsame⟩).symm

/-- Settles O56: ENCODE writes the codes of the tree GENTAB read, and DECODE walks the same tree. -/
theorem roundTrip : Obligations.RoundTrip := by
  intro s hp h hfit hwritten
  have hp := Params.bounds_of_wellFormed hp
  refine ⟨s.built, s.built.tabled, exec_build_of_text h, rfl, exec_gentab_eq rfl, rfl, fun hroom => ?_⟩
  obtain ⟨htextB, -, -, hcontrolB, -⟩ := execBuild_frame (exec_build_of_text h)
  obtain ⟨htextG, -, -, -, -, hcontrolG, -⟩ := execGentab_frame (exec_gentab_eq (s := s.built) rfl)
  have htextU := htextB.trans htextG
  have hsymbols : s.built.tabled.textSymbols = s.textSymbols := State.textSymbols_eq rfl htextU hwritten
  have hencoding := s.built.tabled.encoding_of_fits
    (by rw [hsymbols]; exact fun x hx => State.built_tabled_codeOf_ne_nil hp h hx) (by rwa [hsymbols])
  rw [hsymbols] at hencoding
  have hencode := exec_encode_of_ok rfl hencoding
  obtain ⟨htextE, -, -, -, -, hcontrolE, -⟩ := execEncode_frame hencode
  have hholds : s.built.tabled.HoldsTree :=
    (State.built_holdsTree hp h hfit).of_sameTree ⟨rfl, rfl, rfl, rfl, rfl, rfl⟩
  have htreeU : s.built.tabled.tree = s.built.tree :=
    (State.built_holdsTree hp h hfit).tree_congr ⟨rfl, rfl, rfl, rfl, rfl, rfl⟩
  have hsame := s.built.tabled.sameTree_streamWritten (concatCodes s.built.tabled.codeOf s.textSymbols)
  have hbits := s.built.tabled.streamBits_streamWritten (hroom.trans_lt hp.maxStream_lt)
  have hdecoding := (hholds.of_sameTree hsame).decoding_of_codes (text := s.textSymbols)
    (by rw [hholds.tree_congr hsame, htreeU]; exact fun x hx => (State.mem_built_tree hp h).mpr hx)
    (by rw [s.length_textSymbols]; exact hfit)
    (by rw [hbits, hholds.tree_congr hsame, htreeU]; exact State.built_tabled_concat hp h)
  obtain ⟨w, hdecode, ⟨-, herr, -, -⟩, houtLen, hinside, -, -, htextD, -, -, -, hcontrolD, -⟩ :=
    decode_succeeds rfl hdecoding
  refine ⟨_, w, hencode, rfl, hdecode, herr, ?_, fun i hi => ?_, (htextU.trans htextE).trans htextD,
    ((hcontrolB.trans hcontrolG).trans hcontrolE).trans hcontrolD⟩
  · rw [houtLen, s.length_textSymbols, BitVec.ofNat_toNat, BitVec.setWidth_eq]
  · rw [hinside i (by rwa [s.length_textSymbols])]
    simp [State.textSymbols, hi]

end Sys2Proof.Machine
end

section
/-! PROOF. A failed command reissued fails again (60_exceptions.md R194). -/

namespace Sys2Proof.Machine

variable {s t : State}

theorem encodeLoop_congr {f g : Symbol → List Bit} {text : List Symbol} (h : ∀ x ∈ text, f x = g x) (cap i pos : Nat) :
    encodeLoop f cap i pos text = encodeLoop g cap i pos text := by
  induction text generalizing i pos with
  | nil => rfl
  | cons x xs ih =>
    obtain ⟨hx, hxs⟩ := List.forall_mem_cons.mp h
    rw [encodeLoop, encodeLoop, hx, ih hxs]

/-- The loop reads the slots of the forest alone. -/
theorem Forest.decodeLoop_congr {F G : Nat → Node} {n m : Nat} (h : Forest F n m) (hG : ∀ i < m, G i = F i)
    {root cap : Nat} (hroot : root < m) (hint : (F root).tag = .internal) (bits : List Bit) {k cur start count : Nat}
    (hcur : cur < m) (ht : (F cur).tag = .internal) :
    decodeLoop G root cap k cur start count bits = decodeLoop F root cap k cur start count bits := by
  induction bits generalizing k cur start count with
  | nil => rfl
  | cons b bits ih =>
    have hchild := (h.child_lt_cur hcur ht b).trans hcur
    rw [decodeLoop, decodeLoop, hG cur hcur, hG _ hchild]
    cases htag : (F ((F cur).child b)).tag with
    | leaf => simp only [ih hroot hint]
    | internal => exact ih hchild htag

/-- DECODE computes the same from the same tree and the same stream. -/
theorem State.HoldsTree.decoding_congr (hs : s.HoldsTree) (h : SameTree s t) (hbits : t.streamBits = s.streamBits) :
    t.decoding = s.decoding := by
  have hpos := hs.one_le
  have hlt : s.rootSlot < 2 * s.nleaf.toNat - 1 := by rw [hs.rootSlot_eq]; omega
  have hroot : t.nodeAt t.rootSlot = s.nodeAt s.rootSlot := by rw [h.rootSlot]; exact hs.nodeAt_eq h hlt
  rw [State.decoding, State.decoding, hroot, hbits, h.params, h.rootSlot]
  cases ht : (s.nodeAt s.rootSlot).tag with
  | leaf => rfl
  | internal => exact hs.forest.decodeLoop_congr (fun i => hs.nodeAt_eq h) hlt ht _ hlt ht

/-- ENCODE computes the same from the same table and the same text. -/
theorem State.HoldsTable.encoding_congr (hs : s.HoldsTable) (hparams : t.params = s.params)
    (hlen : t.codeLen = s.codeLen) (hbit : t.codeBit = s.codeBit) (htext : t.textSymbols = s.textSymbols) :
    t.encoding = s.encoding := by
  rw [State.encoding, State.encoding, htext, hparams]
  exact encodeLoop_congr (fun x hx => hs.codeOf_eq hparams hlen hbit (State.lt_alpha_of_mem_text hx)) _ _ _

/-- Only EmptyInput touches the memories of the tree and of the table. -/
theorem State.raise_sameTree (s : State) {e : CmdError} (info : Word) (h : e ≠ .emptyInput) :
    SameTree s (s.raise e info) := by
  constructor <;> simp [errorEffects_root, errorEffects_nodeCnt, errorEffects_nleaf, errorEffects_freq,
    errorEffects_node, h]

theorem State.raise_sameTable (s : State) {e : CmdError} (info : Word) (h : e ≠ .emptyInput) :
    (s.raise e info).codeLen = s.codeLen ∧ (s.raise e info).codeBit = s.codeBit := by
  simp [errorEffects_codeLen, errorEffects_codeBit, h]

/-- `t` fails with the error and the ERR_INFO it already shows. -/
def FailsAgain (i : Instr) (t : State) (e : CmdError) : Prop :=
  ∃ u, exec i t = .next u ∧ u.status.err = some e ∧ u.errInfo = t.errInfo

theorem build_failsAgain {e : CmdError} (hx : execBuild s = .next t) (herr : t.status.err = some e) :
    FailsAgain .build t e := by
  rcases execBuild_cases hx with ⟨hempty, rfl⟩ | ⟨-, rfl⟩
  · cases herr
    exact ⟨_, exec_build_of_emptyText (by simpa using hempty), rfl, rfl⟩
  · cases herr

theorem gentab_failsAgain {e : CmdError} (hx : execGentab s = .next t) (herr : t.status.err = some e) :
    FailsAgain .gentab t e := by
  rcases execGentab_cases hx with ⟨hno, rfl⟩ | ⟨-, rfl⟩
  · cases herr
    exact ⟨_, exec_gentab_of_noTree hno, rfl, rfl⟩
  · cases herr

theorem encode_failsAgain {e : CmdError} (hs : s.Inv)
    (hwritten : ∀ i < s.textLen.toNat, (s.text.read i).isSome = true) (hx : execEncode s = .next t)
    (herr : t.status.err = some e) : FailsAgain .encode t e := by
  rcases execEncode_cases hx with ⟨hno, rfl⟩ | ⟨-, bits, -, rfl⟩ | ⟨hvalid, e', k, hloop, rfl⟩
  · cases herr
    exact ⟨_, exec_encode_of_noTable hno, rfl, rfl⟩
  · cases herr
  · cases herr
    have hne : e ≠ .emptyInput := by rcases State.encoding_error hloop with rfl | rfl <;> decide
    obtain ⟨-, -, htext⟩ := s.raise_keeps_control_port_text e (BitVec.ofNat 32 k)
    obtain ⟨⟨-, hflag⟩, -, -⟩ := s.raise_keeps_tree_of_ne_emptyInput (BitVec.ofNat 32 k) hne
    obtain ⟨hlen, hbit⟩ := s.raise_sameTable (BitVec.ofNat 32 k) hne
    have hagain := (hs.table hvalid).encoding_congr (by simp) hlen hbit (State.textSymbols_eq (by simp) htext hwritten)
    exact ⟨_, exec_encode_of_error (hflag.trans hvalid) (hagain.trans hloop), rfl, rfl⟩

theorem decode_failsAgain {e : CmdError} (hs : s.Inv)
    (hwritten : ∀ k < s.streamLen.toNat, (s.stream.read k).isSome = true) (hx : execDecode s = .next t)
    (herr : t.status.err = some e) : FailsAgain .decode t e := by
  rcases execDecode_cases hx with ⟨hno, rfl⟩ | ⟨-, xs, -, rfl⟩ | ⟨hvalid, e', k, hloop, rfl⟩
  · cases herr
    exact ⟨_, exec_decode_of_noTree hno, rfl, rfl⟩
  · cases herr
  · cases herr
    have hdata := State.decoding_error hloop
    have hne : e ≠ .emptyInput := by rcases hdata with rfl | rfl <;> decide
    have hstream : ¬ (e = .symbolNotInTable ∨ e = .streamOverflow) := by rcases hdata with rfl | rfl <;> decide
    obtain ⟨⟨hflag, -⟩, -, -⟩ := s.raise_keeps_tree_of_ne_emptyInput (BitVec.ofNat 32 k) hne
    have hbits := State.streamBits_eq (s.raise_keepsStream (BitVec.ofNat 32 k) hstream) hwritten
    have hagain := (hs.tree hvalid).decoding_congr (s.raise_sameTree (BitVec.ofNat 32 k) hne) hbits
    exact ⟨_, exec_decode_of_error (hflag.trans hvalid) (hagain.trans hloop), rfl, rfl⟩

/-- Settles O60: what a command failed on is still there when it is issued again. -/
theorem reissuedCommandRepeatsItsError : Obligations.ReissuedCommandRepeatsItsError :=
  fun _ _ _ hs => ⟨build_failsAgain, gentab_failsAgain, encode_failsAgain hs, decode_failsAgain hs⟩

end Sys2Proof.Machine
end

section
/-! PROOF. Every step keeps the invariant of the block (10_state.md R35, R38, R43): clause by clause, then event by
event. -/

namespace Sys2Proof.Machine

variable {s t : State} {α : Type}

/-! ### Elements of a memory -/

theorem Memory.read_of_mem {m : Memory α} (hwf : Memory.wf m) {e : Nat × α} (he : e ∈ m) :
    Memory.read m e.1 = some e.2 := by
  have hkey : Memory.read m e.1 ≠ none := by
    rw [ne_eq, Memory.read_eq_none_iff, not_not]
    exact List.mem_map_of_mem he
  obtain ⟨v, hv⟩ := Option.ne_none_iff_exists'.mp hkey
  have hsame := List.inj_on_of_nodup_map (List.Pairwise.imp Nat.ne_of_lt hwf) (Memory.mem_of_read _ _ _ hv) he rfl
  rw [hv, ← hsame]

theorem Memory.forall_write {P : Nat × α → Prop} {m : Memory α} (hm : ∀ e ∈ m, P e) {i : Nat} {v : α} (hv : P (i, v)) :
    ∀ e ∈ Memory.write m i v, P e := by
  induction m with
  | nil => simpa [Memory.write] using hv
  | cons e rest ih =>
    obtain ⟨k, w⟩ := e
    obtain ⟨hk, hrest⟩ := List.forall_mem_cons.mp hm
    unfold Memory.write
    split
    · exact List.forall_mem_cons.mpr ⟨hv, hm⟩
    · split
      · exact List.forall_mem_cons.mpr ⟨hv, hrest⟩
      · exact List.forall_mem_cons.mpr ⟨hk, ih hrest⟩

theorem Memory.forall_writeAll {P : Nat × α → Prop} {m : Memory α} (hm : ∀ e ∈ m, P e) {i : Nat} {vs : List α}
    (hvs : ∀ k v, vs[k]? = some v → P (i + k, v)) : ∀ e ∈ Memory.writeAll m i vs, P e := by
  induction vs generalizing m i with
  | nil => exact hm
  | cons v vs ih =>
    refine ih (Memory.forall_write hm (hvs 0 v rfl)) fun k w hw => ?_
    have hk := hvs (k + 1) w (by simpa using hw)
    rwa [show i + (k + 1) = i + 1 + k by omega] at hk

/-! ### The clauses of the invariant apart -/

/-- The part of `State.InRange` that is about TEXT, STREAM and OUT. -/
structure State.DataInRange (s : State) : Prop where
  text : ∀ e ∈ s.text, e.1 < s.params.maxText ∧ e.2 < 2 ^ s.params.symW
  stream : ∀ e ∈ s.stream, e.1 < s.params.maxStream
  out : ∀ e ∈ s.out, e.1 < s.params.maxText ∧ e.2 < 2 ^ s.params.symW

theorem State.InRange.data (h : s.InRange) : s.DataInRange := ⟨h.text, h.stream, h.out⟩

/-- A state with the same tree, the same table and the same valid flags holds what they promise. -/
theorem State.Inv.keep (hs : s.Inv) (htree : SameTree s t) (hlen : t.codeLen = s.codeLen) (hbit : t.codeBit = s.codeBit)
    (hvalid : KeepsValidFlags s t) (hcanonical : t.Canonical) (hdata : t.DataInRange) (hlengths : t.LengthsFit)
    (hflags : t.FlagsAgree) : t.Inv := by
  obtain ⟨hparams, hroot, hcnt, hleaf, hfreq, hnode⟩ := htree
  obtain ⟨htreeValid, htableValid⟩ := hvalid
  constructor
  case params => rw [hparams]; exact hs.params
  case canonical => exact hcanonical
  case inRange =>
    obtain ⟨-, -, -, hfreqIn, hnodeIn, hlenIn, hbitIn⟩ := hs.inRange
    refine ⟨hdata.text, hdata.stream, hdata.out, ?_, ?_, ?_, ?_⟩
    · rw [hfreq, hparams]; exact hfreqIn
    · rw [hnode, hparams]; exact hnodeIn
    · rw [hlen, hparams]; exact hlenIn
    · rw [hbit, hparams]; exact hbitIn
  case lengths => exact hlengths
  case flags => exact hflags
  case tree => exact fun hv => (hs.tree (htreeValid ▸ hv)).of_sameTree ⟨hparams, hroot, hcnt, hleaf, hfreq, hnode⟩
  case noTree =>
    intro hv
    rw [hroot, hcnt, hleaf, hfreq, hnode]
    exact hs.noTree (htreeValid ▸ hv)
  case table =>
    intro hv
    have hv := htableValid ▸ hv
    exact (hs.table hv).of_sameTable hparams hlen hbit
      ((hs.tree (hs.flags.table hv)).tree_congr ⟨hparams, hroot, hcnt, hleaf, hfreq, hnode⟩)
  case noTable =>
    intro hv
    rw [hlen, hbit]
    exact hs.noTable (htableValid ▸ hv)

/-- A state without a tree and without a table. -/
theorem State.Inv.drop (hs : s.Inv) (hparams : t.params = s.params) (hvalid : t.status.treeValid = false)
    (htable : t.status.tableValid = false) (hregs : t.root = 0 ∧ t.nodeCnt = 0 ∧ t.nleaf = 0)
    (htree : t.freq = [] ∧ t.node = []) (hcodes : t.codeLen = [] ∧ t.codeBit = []) (hcanonical : t.Canonical)
    (hdata : t.DataInRange) (hlengths : t.LengthsFit) (hflags : t.FlagsAgree) : t.Inv := by
  obtain ⟨hroot, hcnt, hleaf⟩ := hregs
  obtain ⟨hfreq, hnode⟩ := htree
  constructor
  case params => rw [hparams]; exact hs.params
  case canonical => exact hcanonical
  case inRange =>
    refine ⟨hdata.text, hdata.stream, hdata.out, ?_, ?_, ?_, ?_⟩
    · simp [hfreq]
    · simp [hnode]
    · simp [hcodes.1]
    · simp [hcodes.2]
  case lengths => exact hlengths
  case flags => exact hflags
  case tree => simp [hvalid]
  case noTree => exact fun _ => ⟨hroot, hcnt, hleaf, hfreq, hnode⟩
  case table => simp [htable]
  case noTable => exact fun _ => hcodes

/-! ### Flags (10_state.md R31, R32, R43) -/

theorem State.FlagsAgree.of_status (h : s.FlagsAgree) (hstatus : t.status = s.status) (hinfo : t.errInfo = s.errInfo) :
    t.FlagsAgree := by
  obtain ⟨htable, hsticky, hi, hidle⟩ := h
  constructor <;> rw [hstatus]
  · exact htable
  · exact hsticky
  · rw [hinfo]; exact hi
  · exact hidle

theorem State.FlagsAgree.raise (h : s.FlagsAgree) (e : CmdError) (info : Word) : (s.raise e info).FlagsAgree where
  table := Status.TableNeedsTree.after_raise h.table e info
  sticky _ := rfl
  info herr := by cases herr
  idle hidle := by cases hidle

theorem State.succeed_flagsAgree (h : s.status.tableValid = true → s.status.treeValid = true) :
    s.succeed.FlagsAgree where
  table := h
  sticky herr := absurd rfl herr
  info _ := rfl
  idle hidle := by cases hidle

theorem State.FlagsAgree.issue (h : s.FlagsAgree) (w : Word) : (s.issue w).acknowledge.FlagsAgree where
  table := h.table
  sticky := h.sticky
  info := h.info
  idle hidle := by cases hidle

/-! ### Errors and transactions -/

theorem State.InRange.raise_data (h : s.InRange) (e : CmdError) (info : Word) : (s.raise e info).DataInRange := by
  constructor
  case text => simpa using h.text
  case stream =>
    rw [State.raise_stream, State.errorEffects_stream]
    split
    · simp
    · simpa using h.stream
  case out =>
    rw [State.raise_out, State.errorEffects_out]
    split
    · simp
    · simpa using h.out

theorem State.LengthsFit.raise (h : s.LengthsFit) (e : CmdError) (info : Word) : (s.raise e info).LengthsFit := by
  constructor
  case text => simpa using h.text
  case stream =>
    rw [State.raise_streamLen, State.errorEffects_streamLen]
    split
    · simp
    · simpa using h.stream
  case out =>
    rw [State.raise_outLen, State.errorEffects_outLen]
    split
    · simp
    · simpa using h.out

/-- Every error keeps the invariant: EmptyInput by dropping tree and table, the others by keeping them. -/
theorem State.Inv.raise (hs : s.Inv) (e : CmdError) (info : Word) : (s.raise e info).Inv := by
  have hcanonical := hs.canonical.raise e info
  have hdata := hs.inRange.raise_data e info
  have hlengths := hs.lengths.raise e info
  have hflags := hs.flags.raise e info
  by_cases he : e = .emptyInput
  · subst he
    exact hs.drop rfl rfl rfl ⟨rfl, rfl, rfl⟩ ⟨rfl, rfl⟩ ⟨rfl, rfl⟩ hcanonical hdata hlengths hflags
  · obtain ⟨hlen, hbit⟩ := s.raise_sameTable info he
    obtain ⟨hvalid, -, -⟩ := s.raise_keeps_tree_of_ne_emptyInput info he
    exact hs.keep (s.raise_sameTree info he) hlen hbit hvalid hcanonical hdata hlengths hflags

theorem State.Inv.present (hs : s.Inv) (events : List PortEvent) : ({ s with pending := events } : State).Inv :=
  hs.keep ⟨rfl, rfl, rfl, rfl, rfl, rfl⟩ rfl rfl ⟨rfl, rfl⟩
    ⟨hs.canonical.text, hs.canonical.stream, hs.canonical.out, hs.canonical.freq, hs.canonical.node,
      hs.canonical.codeLen, hs.canonical.codeBit⟩
    ⟨hs.inRange.text, hs.inRange.stream, hs.inRange.out⟩ ⟨hs.lengths.text, hs.lengths.stream, hs.lengths.out⟩
    (hs.flags.of_status rfl rfl)

theorem State.Inv.accessFault (hs : s.Inv) : s.accessFault.Inv :=
  hs.keep ⟨rfl, rfl, rfl, rfl, rfl, rfl⟩ rfl rfl ⟨rfl, rfl⟩ hs.canonical.accessFault
    ⟨hs.inRange.text, hs.inRange.stream, hs.inRange.out⟩ ⟨hs.lengths.text, hs.lengths.stream, hs.lengths.out⟩
    (hs.flags.of_status rfl rfl)

theorem State.Inv.answerWith (hs : s.Inv) (w : Word) : (s.answerWith w).Inv :=
  hs.keep ⟨rfl, rfl, rfl, rfl, rfl, rfl⟩ rfl rfl ⟨rfl, rfl⟩
    ⟨hs.canonical.text, hs.canonical.stream, hs.canonical.out, hs.canonical.freq, hs.canonical.node,
      hs.canonical.codeLen, hs.canonical.codeBit⟩
    ⟨hs.inRange.text, hs.inRange.stream, hs.inRange.out⟩ ⟨hs.lengths.text, hs.lengths.stream, hs.lengths.out⟩
    (hs.flags.of_status rfl rfl)

/-- A register is written within its bounds (20_memory.md R64 step 4). -/
theorem State.Inv.writeReg (hs : s.Inv) (r : Reg) (w : Word) : (s.writeReg r w).Inv := by
  have hcanonical := hs.canonical.writeReg r w
  have hdata : ∀ u : State, u.text = s.text → u.stream = s.stream → u.out = s.out → u.params = s.params →
      u.DataInRange := by
    intro u htext hstream hout hparams
    refine ⟨?_, ?_, ?_⟩
    · rw [htext, hparams]; exact hs.inRange.text
    · rw [hstream, hparams]; exact hs.inRange.stream
    · rw [hout, hparams]; exact hs.inRange.out
  rcases s.writeReg_cases r w with h | ⟨-, h⟩ | ⟨-, h⟩ | ⟨-, hcap, h⟩ | ⟨-, hcap, h⟩ <;> rw [h] at hcanonical ⊢
  case inl => exact hs.accessFault
  all_goals refine hs.keep ⟨rfl, rfl, rfl, rfl, rfl, rfl⟩ rfl rfl ⟨rfl, rfl⟩ hcanonical (hdata _ rfl rfl rfl rfl) ?_ ?_
  · exact ⟨hs.lengths.text, hs.lengths.stream, hs.lengths.out⟩
  · exact hs.flags.issue w
  · exact ⟨hs.lengths.text, hs.lengths.stream, hs.lengths.out⟩
  · exact hs.flags.of_status rfl rfl
  · exact ⟨hcap, hs.lengths.stream, hs.lengths.out⟩
  · exact hs.flags.of_status rfl rfl
  · exact ⟨hs.lengths.text, hcap, hs.lengths.out⟩
  · exact hs.flags.of_status rfl rfl

/-- An element is written within its space and its width (20_memory.md R61, R64). -/
theorem State.Inv.writeElement (hs : s.Inv) {space : Space} {index : Nat} (w : Word)
    (hlegal : legalIndex s.params space index = true) : (s.writeElement space index w).Inv := by
  have hcanonical := hs.canonical.writeElement space index w
  rcases s.writeElement_cases space index w with h | ⟨r, -, -, h⟩ | ⟨rfl, h⟩ | ⟨rfl, h⟩
  · rw [h]; exact hs.accessFault
  · rw [h]; exact hs.writeReg r w
  · rw [h] at hcanonical ⊢
    refine hs.keep ⟨rfl, rfl, rfl, rfl, rfl, rfl⟩ rfl rfl ⟨rfl, rfl⟩ hcanonical ?_
      ⟨hs.lengths.text, hs.lengths.stream, hs.lengths.out⟩ (hs.flags.of_status rfl rfl)
    exact ⟨Memory.forall_write hs.inRange.text ⟨of_decide_eq_true hlegal, Nat.mod_lt _ (Nat.two_pow_pos _)⟩,
      hs.inRange.stream, hs.inRange.out⟩
  · rw [h] at hcanonical ⊢
    refine hs.keep ⟨rfl, rfl, rfl, rfl, rfl, rfl⟩ rfl rfl ⟨rfl, rfl⟩ hcanonical ?_
      ⟨hs.lengths.text, hs.lengths.stream, hs.lengths.out⟩ (hs.flags.of_status rfl rfl)
    exact ⟨hs.inRange.text, Memory.forall_write hs.inRange.stream (of_decide_eq_true hlegal), hs.inRange.out⟩

/-! ### BUILD -/

/-- No slot of a forest weighs more than its Leaves together. -/
theorem Forest.weight_le {F : Nat → Node} {n m i : Nat} (h : Forest F n m) (hi : i < m) :
    (F i).weight ≤ ((List.range n).map fun k => (F k).weight).sum := by
  by_cases hn : n ≤ i
  · have hsum := h.sum_aliveIn (fun j => (F j).weight) (fun i hn hm => (h.merge i hn hm).weight) (i := i + 1)
      (by omega) hi
    have hmem : i ∈ aliveIn F (i + 1) := (h.aliveIn_succ hn hi).mem_iff.mpr List.mem_cons_self
    rw [← hsum]
    exact List.le_sum_of_mem (List.mem_map_of_mem (f := fun j => (F j).weight) hmem)
  · exact List.le_sum_of_mem (List.mem_map_of_mem (f := fun k => (F k).weight) (List.mem_range.mpr (by omega)))

/-- Every slot's fields fit their widths (10_state.md R33). -/
theorem State.built_node_inRange (hp : s.params.Bounds) (h : s.textLen ≠ 0)
    (hfit : s.textLen.toNat ≤ s.params.maxText) : ∀ e ∈ s.built.node, e.1 < s.params.maxNode ∧
      e.2.weight < 2 ^ s.params.wW ∧ e.2.sym < 2 ^ s.params.symW ∧ e.2.left < 2 ^ s.params.idxW ∧
      e.2.right < 2 ^ s.params.idxW := by
  rintro ⟨i, v⟩ he
  have hread : s.built.node.read i = some v := Memory.read_of_mem (Memory.wf_ofList _) he
  have hlt : i < 2 * s.present.length - 1 := (State.built_node_isSome_iff hp h i).mp (by rw [hread]; rfl)
  have hslot : s.built.nodeAt i = v := by simp [State.nodeAt, hread]
  have hforest := State.built_forest hp h
  have hle := s.present_le
  have halpha := s.params.alpha_pos
  have hroot := State.built_rootWeight hp h
  rw [State.built_rootSlot hp h, hforest.weight_root (State.present_pos h)] at hroot
  have hweight : v.weight < 2 ^ s.params.wW := by
    have hmax := hforest.weight_le hlt
    have hwidth := hp.maxText_lt_count
    rw [hslot, hroot] at hmax
    omega
  have hmaxNode : i < s.params.maxNode := by rw [Params.maxNode]; omega
  rw [Params.two_pow_idxW]
  refine ⟨hmaxNode, hweight, ?_⟩
  by_cases hn : i < s.present.length
  · rw [s.built_leaf hn] at hslot
    subst hslot
    have hx := State.lt_alpha_of_mem_text (State.mem_present.mp (List.getElem_mem hn))
    have hwide : 0 < 2 * s.params.alpha := by omega
    exact ⟨hx, hwide, hwide⟩
  · have hmerge := hforest.merge i (by omega) hlt
    have hl := lt_of_mem_aliveIn hmerge.left
    have hr := lt_of_mem_aliveIn hmerge.right
    have hsym := hmerge.sym
    rw [hslot] at hl hr hsym
    have hwide : ∀ j < i, j < 2 * s.params.alpha := fun j hj => by omega
    refine ⟨?_, hwide _ hl, hwide _ hr⟩
    rw [hsym]
    exact Nat.two_pow_pos _

theorem State.textCounts_inRange (hp : s.params.Bounds) (hfit : s.textLen.toNat ≤ s.params.maxText) :
    ∀ e ∈ s.textCounts, e.1 < s.params.alpha ∧ e.2 < 2 ^ s.params.wW := by
  intro e he
  have hread : s.textCounts.read e.1 = some e.2 := Memory.read_of_mem (wf_countFrequencies _ _) he
  rw [s.textCounts_read] at hread
  split at hread
  case isFalse => cases hread
  case isTrue hx =>
    have hcount := s.count_le_textLen e.1
    have hwidth := hp.maxText_lt_count
    have he2 := Option.some.inj hread
    exact ⟨hx, by omega⟩

theorem State.Inv.built (hs : s.Inv) (h : s.textLen ≠ 0) : s.built.Inv := by
  have hp := Params.bounds_of_wellFormed hs.params
  have hfit := hs.lengths.text
  have hx := exec_build_of_text h
  constructor
  case params => exact hs.params
  case canonical => exact hs.canonical.after_exec hx
  case inRange =>
    exact ⟨hs.inRange.text, hs.inRange.stream, hs.inRange.out, State.textCounts_inRange hp hfit,
      State.built_node_inRange hp h hfit, fun e he => absurd he List.not_mem_nil,
      fun e he => absurd he List.not_mem_nil⟩
  case lengths => exact ⟨hs.lengths.text, hs.lengths.stream, hs.lengths.out⟩
  case flags => exact State.succeed_flagsAgree fun _ => rfl
  case tree => exact fun _ => State.built_holdsTree hp h hfit
  case noTree => exact fun hv => by cases hv
  case table => exact fun hv => by cases hv
  case noTable => exact fun _ => ⟨rfl, rfl⟩

/-! ### GENTAB -/

/-- What SetCode writes stays in the rows of the symbols (R143). -/
theorem foldl_setCode_inRange {alpha maxLen : Nat} (hmax : maxLen ≤ alpha) (es : List (Symbol × List Bit))
    (hes : ∀ e ∈ es, e.1 < alpha ∧ e.2.length ≤ maxLen) :
    (∀ e ∈ (es.foldl (setCode alpha) (emptyTables alpha)).codeLen, e.1 < alpha ∧ e.2 ≤ maxLen) ∧
    ∀ e ∈ (es.foldl (setCode alpha) (emptyTables alpha)).codeBit, e.1 < alpha * alpha := by
  induction es using List.reverseRecOn with
  | nil => simp [emptyTables, Memory.table]
  | append_singleton es e ih =>
    obtain ⟨hlen, hbit⟩ := ih fun e he => hes e (List.mem_append_left _ he)
    obtain ⟨hsym, hcode⟩ := hes e (by simp)
    rw [List.foldl_append, List.foldl_cons, List.foldl_nil]
    refine ⟨Memory.forall_write hlen ⟨hsym, hcode⟩, Memory.forall_writeAll hbit fun k v hv => ?_⟩
    obtain ⟨hk, -⟩ := List.getElem?_eq_some_iff.mp hv
    have hrow : (e.1 + 1) * alpha ≤ alpha * alpha := Nat.mul_le_mul_right alpha hsym
    rw [Nat.succ_mul] at hrow
    exact lt_of_lt_of_le (Nat.add_lt_add_left (by omega) _) hrow

theorem State.HoldsTree.tabled_inRange (h : s.HoldsTree) (hp : s.params.Bounds) :
    (∀ e ∈ s.tabled.codeLen, e.1 < s.params.alpha ∧ e.2 ≤ s.params.maxLen) ∧
    ∀ e ∈ s.tabled.codeBit, e.1 < s.params.alpha * s.params.alpha := by
  have hcodes : ∀ e ∈ s.codeCalls, e.1 < s.params.alpha ∧ e.2.length ≤ s.params.maxLen := by
    rw [s.codeCalls_eq_table]
    intro e he
    have hlen := Tree.length_le_of_mem_table he
    have hle := h.le_alpha
    rw [h.length_symbols] at hlen
    rw [Params.maxLen]
    exact ⟨h.lt_alpha (s.tree.keys_table ▸ List.mem_map_of_mem he), by omega⟩
  exact foldl_setCode_inRange hp.maxLen_le _ hcodes

/-- GENTAB establishes the invariant of the table (R38). -/
theorem State.HoldsTree.tabled_holdsTable (h : s.HoldsTree) (hp : s.params.Bounds) : s.tabled.HoldsTable := by
  have htree : s.tabled.tree = s.tree := h.tree_congr ⟨rfl, rfl, rfl, rfl, rfl, rfl⟩
  constructor <;> rw [State.tabled_params]
  case lengths =>
    refine Memory.keys_eq_range s.codeTables_canonical.1 fun x => ⟨fun hsome => ?_, fun hx => ?_⟩
    · obtain ⟨v, hv⟩ := Option.isSome_iff_exists.mp hsome
      exact ((h.tabled_inRange hp).1 _ (Memory.mem_of_read _ _ _ hv)).1
    · have hread := (State.tabled_read h.fits hx).1
      exact Option.isSome_iff_exists.mpr ⟨_, hread⟩
  case bits =>
    intro x hx i hi
    rw [(State.tabled_read h.fits hx).2 i hi, State.tabled_codeLenAt h.fits hx, Bool.eq_iff_iff]
    simp
  case codes =>
    intro x hx
    rw [State.tabled_codeOf h.fits hx, htree]
  case longest =>
    intro x hx
    rw [State.tabled_codeLenAt h.fits hx]
    exact h.length_code_le x

theorem State.Inv.tabled (hs : s.Inv) (hvalid : s.status.treeValid = true) : s.tabled.Inv := by
  have hp := Params.bounds_of_wellFormed hs.params
  have h := hs.tree hvalid
  obtain ⟨hlen, hbit⟩ := h.tabled_inRange hp
  constructor
  case params => exact hs.params
  case canonical => exact hs.canonical.after_exec (exec_gentab_eq hvalid)
  case inRange =>
    exact ⟨hs.inRange.text, hs.inRange.stream, hs.inRange.out, hs.inRange.freq, hs.inRange.node, hlen, hbit⟩
  case lengths => exact ⟨hs.lengths.text, hs.lengths.stream, hs.lengths.out⟩
  case flags => exact State.succeed_flagsAgree fun _ => hvalid
  case tree => exact fun _ => h.of_sameTree ⟨rfl, rfl, rfl, rfl, rfl, rfl⟩
  case noTree => exact fun hv => absurd (hvalid.symm.trans hv) (by decide)
  case table => exact fun _ => h.tabled_holdsTable hp
  case noTable => exact fun hv => by cases hv

/-! ### ENCODE and DECODE -/

theorem State.Inv.streamWritten (hs : s.Inv) {bits : List Bit} (hvalid : s.status.tableValid = true)
    (hbits : s.encoding = .ok bits) : (s.streamWritten bits).succeed.Inv := by
  have hfit : 0 + bits.length ≤ s.params.maxStream := encodeLoop_fits (Nat.zero_le _) hbits
  refine hs.keep ⟨rfl, rfl, rfl, rfl, rfl, rfl⟩ rfl rfl ⟨rfl, rfl⟩
    (hs.canonical.after_exec (exec_encode_of_ok hvalid hbits)) ⟨hs.inRange.text, ?_, hs.inRange.out⟩
    ⟨hs.lengths.text, ?_, hs.lengths.out⟩ (State.succeed_flagsAgree hs.flags.table)
  · refine Memory.forall_writeAll hs.inRange.stream fun k v hv => ?_
    obtain ⟨hk, -⟩ := List.getElem?_eq_some_iff.mp hv
    exact lt_of_lt_of_le (Nat.add_lt_add_left hk 0) hfit
  · rw [State.succeed_streamLen, State.streamWritten_streamLen, BitVec.toNat_ofNat]
    exact (Nat.mod_le _ _).trans (by simpa using hfit)

theorem decodeDegenerate_ok {x : Symbol} {cap k n : Nat} {bits : List Bit} {xs : List Symbol} (hn : n ≤ cap)
    (h : decodeDegenerate x cap k n bits = .ok xs) : n + xs.length ≤ cap ∧ ∀ y ∈ xs, y = x := by
  have hfit : n + bits.length ≤ cap := by
    by_contra hover
    rw [decodeDegenerate_of_overflow x bits hn (by omega)] at h
    cases h
  rw [decodeDegenerate_of_fits x bits hfit] at h
  cases h
  exact ⟨by simpa using hfit, fun y hy => (List.mem_replicate.mp hy).2⟩

/-- What the loop emits fits OUT, and comes from the slots of the forest. -/
theorem Forest.decodeLoop_ok {F : Nat → Node} {n m : Nat} (h : Forest F n m) {P : Symbol → Prop}
    (hP : ∀ i < m, P (F i).sym) {root cap : Nat} (hroot : root < m) (hint : (F root).tag = .internal) {bits : List Bit}
    {k cur start count : Nat} {xs : List Symbol} (hcur : cur < m) (ht : (F cur).tag = .internal) (hcount : count ≤ cap)
    (hx : decodeLoop F root cap k cur start count bits = .ok xs) : count + xs.length ≤ cap ∧ ∀ x ∈ xs, P x := by
  induction bits generalizing k cur start count xs with
  | nil =>
    unfold decodeLoop at hx
    split at hx <;> cases hx
    exact ⟨hcount, fun x hx => absurd hx List.not_mem_nil⟩
  | cons b bits ih =>
    have hchild := (h.child_lt_cur hcur ht b).trans hcur
    rw [decodeLoop] at hx
    cases htag : (F ((F cur).child b)).tag with
    | leaf =>
      simp only [htag] at hx
      split at hx
      · cases hx
      · split at hx
        · rename_i ys hys
          cases hx
          obtain ⟨hlen, hmem⟩ := ih hroot hint (by omega) hys
          exact ⟨by rw [List.length_cons]; omega, List.forall_mem_cons.mpr ⟨hP _ hchild, hmem⟩⟩
        · cases hx
    | internal =>
      simp only [htag] at hx
      exact ih hchild htag hcount hx

theorem State.HoldsTree.sym_lt (h : s.HoldsTree) {i : Nat} (hi : i < 2 * s.nleaf.toNat - 1) :
    (s.nodeAt i).sym < s.params.alpha := by
  by_cases hn : i < s.nleaf.toNat
  · have hmem := List.mem_map_of_mem (f := fun k => (s.nodeAt k).sym) (List.mem_range.mpr hn)
    rw [h.symbols, List.mem_filter] at hmem
    exact List.mem_range.mp hmem.1
  · rw [(h.forest.merge i (by omega) hi).sym]
    exact s.params.alpha_pos

/-- What DECODE delivers fits OUT. -/
theorem State.HoldsTree.decoding_ok (h : s.HoldsTree) {xs : List Symbol} (hxs : s.decoding = .ok xs) :
    xs.length ≤ s.params.maxText ∧ ∀ x ∈ xs, x < s.params.alpha := by
  have hpos := h.one_le
  have hroot : s.rootSlot < 2 * s.nleaf.toNat - 1 := by rw [h.rootSlot_eq]; omega
  cases ht : (s.nodeAt s.rootSlot).tag with
  | leaf =>
    rw [State.decoding_of_leaf ht] at hxs
    obtain ⟨hlen, hsame⟩ := decodeDegenerate_ok (Nat.zero_le _) hxs
    exact ⟨by omega, fun x hx => hsame x hx ▸ h.sym_lt hroot⟩
  | internal =>
    simp only [State.decoding, ht] at hxs
    obtain ⟨hlen, hmem⟩ := h.forest.decodeLoop_ok (P := (· < s.params.alpha)) (fun i => h.sym_lt) hroot ht hroot ht (Nat.zero_le _) hxs
    exact ⟨by omega, hmem⟩

theorem State.Inv.outWritten (hs : s.Inv) {xs : List Symbol} (hvalid : s.status.treeValid = true)
    (hxs : s.decoding = .ok xs) : (s.outWritten xs).succeed.Inv := by
  obtain ⟨hfit, hmem⟩ := (hs.tree hvalid).decoding_ok hxs
  refine hs.keep ⟨rfl, rfl, rfl, rfl, rfl, rfl⟩ rfl rfl ⟨rfl, rfl⟩
    (hs.canonical.after_exec (exec_decode_of_ok hvalid hxs)) ⟨hs.inRange.text, hs.inRange.stream, ?_⟩
    ⟨hs.lengths.text, hs.lengths.stream, ?_⟩ (State.succeed_flagsAgree hs.flags.table)
  · refine Memory.forall_writeAll hs.inRange.out fun k v hv => ?_
    obtain ⟨hk, rfl⟩ := List.getElem?_eq_some_iff.mp hv
    have hindex : 0 + k < s.params.maxText := by omega
    exact ⟨hindex, hmem _ (List.getElem_mem hk)⟩
  · rw [State.succeed_outLen, State.outWritten_outLen, BitVec.toNat_ofNat]
    exact (Nat.mod_le _ _).trans hfit

theorem State.Inv.clearNow (hs : s.Inv) : s.clearNow.drawn.Inv :=
  hs.drop rfl rfl rfl ⟨rfl, rfl, rfl⟩ ⟨rfl, rfl⟩ ⟨rfl, rfl⟩ (hs.canonical.after_exec (exec_clear s))
    ⟨hs.inRange.text, hs.inRange.stream, hs.inRange.out⟩ ⟨Nat.zero_le _, Nat.zero_le _, Nat.zero_le _⟩
    ⟨fun hv => (by cases hv), fun herr => absurd rfl herr, fun _ => rfl, fun _ => rfl⟩

/-! ### One instruction, one step -/

theorem State.Inv.after_exec (hs : s.Inv) {i : Instr} (hx : exec i s = .next t) : t.Inv := by
  cases i with
  | build =>
    rcases execBuild_cases hx with ⟨-, rfl⟩ | ⟨htext, rfl⟩
    · exact hs.raise _ _
    · exact hs.built htext
  | gentab =>
    rcases execGentab_cases hx with ⟨-, rfl⟩ | ⟨hvalid, rfl⟩
    · exact hs.raise _ _
    · exact hs.tabled hvalid
  | encode =>
    rcases execEncode_cases hx with ⟨-, rfl⟩ | ⟨hvalid, bits, hbits, rfl⟩ | ⟨-, e, k, -, rfl⟩
    · exact hs.raise _ _
    · exact hs.streamWritten hvalid hbits
    · exact hs.raise _ _
  | decode =>
    rcases execDecode_cases hx with ⟨-, rfl⟩ | ⟨hvalid, xs, hxs, rfl⟩ | ⟨-, e, k, -, rfl⟩
    · exact hs.raise _ _
    · exact hs.outWritten hvalid hxs
    · exact hs.raise _ _
  | clear => rw [execClear_cases hx]; exact hs.clearNow
  | rd space index =>
    rcases execRd_cases hx with rfl | ⟨-, -, rfl⟩
    · exact hs.accessFault
    · exact hs.answerWith _
  | wr space index wdata =>
    rcases execWr_cases hx with rfl | ⟨-, hlegal, -, rfl⟩
    · exact hs.accessFault
    · exact hs.writeElement wdata hlegal

/-- Settles O14: a step is an instruction, a reset, an error, or nothing, on the state without the event taken. -/
theorem stepKeepsInv : Obligations.StepKeepsInv := by
  intro s t hs hstep
  obtain ⟨r, events, hr, hcase⟩ := step_cases hstep
  have hr : r.Inv := hr ▸ hs.present events
  rcases hcase with ⟨w, -, hx⟩ | ⟨-, rfl⟩ | ⟨-, ⟨-, rfl⟩ | ⟨-, i, -, hx⟩ | ⟨-, w, -, rfl⟩⟩
  · exact hr.after_exec hx
  · exact State.inv_of_reset r.params r.pending (r.draws + 1) hr.params
  · exact hr
  · exact hr.after_exec hx
  · exact hr.raise _ _

end Sys2Proof.Machine
end
